-- ==== Sys2Proof/Word.lean ====
section
/-! DEFINITION. The bit-vector types of the fabric's ports and packed formats (00_scope.md R10, R12, R15;
30_encoding.md R100 to R106). -/

namespace Sys2Proof

/-- One byte: a byte lane of the main bus, or the data of a CSR beat (`WC = G = 8`, R10). -/
abbrev Byte := BitVec 8

/-- Main-bus data (`W = 32`, R10). -/
abbrev Word := BitVec 32

/-- A main-bus word address (`AW = 30`); its byte address is four times it (R60). -/
abbrev WordAddr := BitVec 30

/-- A `byte_select_mask` (`L = 4`); bit `j` selects lane `j` (R67). -/
abbrev Lanes := BitVec 4

/-- A CSR-local byte address (`AC = 28`, R61). -/
abbrev CsrAddr := BitVec 28

/-- A word offset in the CsrBridge window (`AB = 26`, R40). -/
abbrev BridgeAddr := BitVec 26

/-- The beat cursor of the CsrBridge (`Fin B`, `B = 4`, R39). -/
abbrev BeatIndex := BitVec 2

/-- The packed main-bus request `WREQ` (R104). -/
abbrev Wreq := BitVec 67

/-- The packed main-bus response `WRSP` (R105). -/
abbrev Wrsp := BitVec 34

/-- The packed CSR beat request `CREQ` (R106). -/
abbrev Creq := BitVec 38

/-- The packed CSR beat response `CRSP` (R106). -/
abbrev Crsp := BitVec 10

end Sys2Proof
end

