-- ==== Sys2Proof/Syntax.lean ====
section
/-! DEFINITION. The transaction kinds (one constructor per row of spec/opcode_table.json), the records a port carries
(00_scope.md R15; 30_encoding.md R100, R103), one cycle's environment signals (45_fabric_step.md R293), and the
statements of the trace notation (30_encoding.md R115, R116). -/

namespace Sys2Proof

/-- The transaction kinds of the main bus (R108) and the beat kinds of the CSR sub-bus (R109, R111). -/
inductive Instr where
  /-- `WB_READ` (R160): `datW` is forwarded unchanged to main-bus targets and ignored by the CsrBridge (R113). -/
  | wbRead (adr : WordAddr) (sel : Lanes) (datW : Word)
  /-- `WB_WRITE` (R161). -/
  | wbWrite (adr : WordAddr) (sel : Lanes) (datW : Word)
  /-- `CSR_READ` (R276): the low byte of the packed word has no meaning for the kind. -/
  | csrRead (adr : CsrAddr) (datW : Byte)
  /-- `CSR_WRITE` (R277). -/
  | csrWrite (adr : CsrAddr) (datW : Byte)
  /-- `CSR_WRITE_NOSEL` (R278): the byte of a lane the wide write did not select. -/
  | csrWriteNosel (adr : CsrAddr) (datW : Byte)
  /-- `CSR_RESERVED` (R111): never issued. -/
  | csrReserved (adr : CsrAddr) (datW : Byte)
  deriving DecidableEq, Repr, Inhabited

/-- DOC0's `BusRequest` as R15 types it: the request-direction signals of a main-bus port except `req` (R100). -/
structure BusReq where
  adr  : WordAddr
  we   : Bool
  sel  : Lanes
  datW : Word
  deriving DecidableEq, Repr, Inhabited

/-- DOC0's `BusResponse` as R15 types it (R100). -/
structure BusRsp where
  ack  : Bool
  err  : Bool
  datR : Word
  deriving DecidableEq, Repr, Inhabited

/-- `CsrBeatRequest` (R15, R103). -/
structure BeatReq where
  adr    : CsrAddr
  we     : Bool
  select : Bool
  datW   : Byte
  deriving DecidableEq, Repr, Inhabited

/-- `CsrBeatResponse` (R15, R103). -/
structure BeatRsp where
  ack  : Bool
  err  : Bool
  datR : Byte
  deriving DecidableEq, Repr, Inhabited

/-- The kind of a response in one cycle, read from `err` and `ack` alone (R110). -/
inductive RspKind where
  | none
  | ok
  | error
  deriving DecidableEq, Repr, Inhabited

/-- What an initiator drives on its port `I[i]` in one cycle: the request line and the packed request (R100, R104). -/
structure RequestLine where
  req  : Bool
  word : Wreq
  deriving DecidableEq, Repr, Inhabited

/-- The environment's signals in one cycle (the Inputs of R295, in R293's list): the reset line, the request signals
of each `I[i]`, and the response signals of each `T[r]` and `U[u]`, each in registration order. The entry of `main` at
the index of the CsrBridge's own region is read by nothing. -/
structure CycleInput where
  rst  : Bool
  ini  : List RequestLine
  main : List BusRsp
  csr  : List BeatRsp
  deriving DecidableEq, Repr, Inhabited

/-- A statement of the trace notation: `RD`, `WR` (R115), whose mask is 0b1111 where none is written, and the
pseudo-statements `RDB`, `WRB`, `RDH`, `WRH` and `IDLE` (R116). Addresses are byte addresses. -/
inductive Stmt where
  | rd (addr : Nat) (sel : Lanes := 0b1111)
  | wr (addr : Nat) (data : Word) (sel : Lanes := 0b1111)
  | rdb (addr : Nat)
  | wrb (addr : Nat) (data : Byte)
  | rdh (addr : Nat)
  | wrh (addr : Nat) (data : BitVec 16)
  | idle (cycles : Nat)
  deriving DecidableEq, Repr, Inhabited

/-- A line of a trace program (R115): the initiator `I<i>` that issues the statement and, where a line `@<c>` stands
before it, the cycle `c`. -/
structure TraceLine where
  initiator : Nat
  start     : Option Nat := none
  stmt      : Stmt
  deriving DecidableEq, Repr, Inhabited

/-- A trace program: its lines in order. -/
abbrev Trace := List TraceLine

/-- What a statement has its initiator do: hold a packed request until it completes (R115), or keep `req = 0` for a number
of cycles (`IDLE`, R116). -/
inductive TraceOp where
  | issue (w : Wreq)
  | idle (cycles : Nat)
  deriving DecidableEq, Repr, Inhabited

end Sys2Proof
end

