-- ==== Sys2Proof/Config.lean ====
section
/-! DEFINITION. What an implementation fixes: the parameters of 00_scope.md R10, the records of the address map
(40_address_map.md R130), the configuration (10_state.md R34), and the free values (the Draws of 45_fabric_step.md
R295), which have no body. -/

namespace Sys2Proof

/-- The two buses that have an address map: the main bus and the CSR sub-bus. -/
inductive Bus where
  | main
  | csr
  deriving DecidableEq, Repr, Inhabited

/-- `A` and `AC` (R10). -/
def Bus.addrBits : Bus → Nat
  | .main => 32
  | .csr => 28

/-- `W` and `WC` (R10, R138). -/
def Bus.width : Bus → Nat
  | .main => 32
  | .csr => 8

/-- `G`, the granularity of both buses in bits (R10, R138). -/
def Bus.granularity : Bus → Nat
  | .main => 8
  | .csr => 8

/-- `CSR_WINDOW_SIZE` (R10). -/
def csrWindowSize : Nat := 0x10000000

/-- `SRAM_SIZE` (R10). -/
def sramSize : Nat := 0x800

/-- `GPIO_CSR_SIZE` (R10). -/
def gpioCsrSize : Nat := 0x20

/-- Bases of `MAIN_MAP` (R63). -/
def flashBase : Nat := 0x00000000
def sramBase : Nat := 0x10000000
def debugBase : Nat := 0xa0000000
def csrBase : Nat := 0xb0000000

/-- Bases of `CSR_MAP`, local to the CsrBridge window (R64). -/
def gpioBase : Nat := 0x01000000
def uartBase : Nat := 0x02000000
def idBase : Nat := 0x04000000

/-- `REQUIRE_ALIGNED` (R10, R134). -/
def requireAligned : Bool := true

/-- What a region forwards to (R130): its own port outside the fabric (`T[r]` on the main bus, `U[u]` on the CSR
sub-bus, `r` or `u` the region's place in its map), or the CsrBridge. -/
inductive Target where
  | external
  | bridge
  deriving DecidableEq, Repr, Inhabited

/-- A region of a map (R130); `base` and `size` are byte quantities, `granularity` is in bits. -/
structure Region where
  name        : String
  base        : Nat
  size        : Nat
  granularity : Nat
  target      : Target
  deriving DecidableEq, Repr, Inhabited

/-- What a target supplies when it is registered (R132: "the target supplies its port, and the port has a size and a
width"). -/
structure TargetPort where
  target      : Target
  size        : Nat
  dataWidth   : Nat
  granularity : Nat
  deriving DecidableEq, Repr, Inhabited

/-- An initiator's port as registered (R141). -/
structure InitiatorPort where
  name        : String
  dataWidth   : Nat
  granularity : Nat
  deriving DecidableEq, Repr, Inhabited

/-- The configuration (10_state.md R34): `INITIATORS`, `MAIN_MAP` and `CSR_MAP`, each in registration order. -/
structure Config where
  initiators : List InitiatorPort
  mainMap    : List Region
  csrMap     : List Region
  deriving DecidableEq, Repr, Inhabited

/-- `N`, the number of initiators. -/
def Config.n (cfg : Config) : Nat := cfg.initiators.length

/-- The map of a bus. -/
def Config.map (cfg : Config) : Bus → List Region
  | .main => cfg.mainMap
  | .csr => cfg.csrMap

/-- The OPEN sizes of 00_scope.md R10. -/
structure OpenSizes where
  flash : Nat
  debug : Nat
  uart  : Nat
  id    : Nat
  deriving DecidableEq, Repr, Inhabited

/-- The construction errors (60_exceptions.md R320, codes 0 to 7), with the names each one reports. -/
inductive BuildError where
  /-- A new window intersects the window of the region named second (R133). -/
  | overlap (name other : String)
  /-- An initiator or target is added after start (R137). -/
  | lateRegistration (name : String)
  /-- Region size 0 (R136). -/
  | zeroSize (name : String)
  /-- The window passes the end of its address space (R135). -/
  | range (name : String)
  /-- Base or size not a multiple of 4 on the main bus, or base not aligned to the size's power-of-two window (R134). -/
  | misalignedRegion (name : String)
  /-- Port width or granularity differs from the bus (R138). -/
  | widthMismatch (name : String)
  /-- A region name repeats in one map (R139). -/
  | duplicateName (name : String)
  /-- The fabric would start with no initiator (R142). -/
  | noInitiator
  deriving DecidableEq, Repr, Inhabited

/-- The run-time errors (60_exceptions.md R320, codes 8 to 11). They travel on no wire: a `BusError` is only the `err`
bit of a response (R320), and the cause is the `info` of R14. -/
inductive BusError where
  | unmapped
  | target
  | unmappedCsr
  | csrTarget
  deriving DecidableEq, Repr, Inhabited

/-- Which request field of a port a free value stands for. -/
inductive Field where
  | adr
  | we
  | sel
  | dat
  deriving DecidableEq, Repr, Inhabited

/-- Where the spec writes `any`, one name for each place, so that free values of one cycle are independent of each
other. -/
inductive Slot where
  /-- Shared-bus request fields while no initiator is granted (42_arbiter.md R194). -/
  | shared (f : Field)
  /-- Request fields of `T[r]` while it is not driven (41_decoder.md R163). -/
  | target (r : Nat) (f : Field)
  /-- Request fields of the CsrBridge input while it is not driven (41_decoder.md R163). -/
  | bridgeIn (f : Field)
  /-- Beat fields while the CsrBridge issues no beat (43_csr_bridge.md R232). -/
  | beat (f : Field)
  /-- Request fields of `U[u]` while it is not driven (44_csr_decoder.md R272; 93_implementation_defined.md row 9). -/
  | csrTarget (u : Nat) (f : Field)
  /-- `dat_r` of the CsrBridge outside `Done` (43_csr_bridge.md R232). -/
  | bridgeNone
  /-- `dat_r` of a wide write's aggregate response (43_csr_bridge.md R238). -/
  | bridgeWrite
  /-- Lanes from the failing beat up of an aborted read (43_csr_bridge.md R238, R240). -/
  | bridgeAbort
  /-- `dat_r` of the Decoder when nothing answers (41_decoder.md R164). -/
  | decoderNone
  /-- `dat_r` of the CsrDecoder when nothing answers (44_csr_decoder.md R273). -/
  | csrDecoderNone
  /-- `dat_r` on `I[i]` when initiator `i` is not granted (42_arbiter.md R195). -/
  | initiator (i : Nat)
  /-- A CsrBridge field after a reset edge (10_state.md R49). -/
  | resetField (f : Field)
  /-- The CsrBridge read buffer after a reset edge (10_state.md R49). -/
  | resetRbuf
  /-- Data lines of `T[r]` in a cycle whose input entry lists nothing for it. -/
  | undrivenMain (r : Nat)
  /-- Data lines of `U[u]` in a cycle whose input entry lists nothing for it. -/
  | undrivenCsr (u : Nat)
  /-- Request lines of `I[i]` in a cycle whose input entry lists nothing for it. -/
  | undrivenRequest (i : Nat)
  deriving DecidableEq, Repr, Inhabited

/-- The free values: `w` bits for a slot at a draw counter. It has no body, so nothing can be proved of its value
(the Draws of 45_fabric_step.md R295; log entry 2). -/
opaque Config.anyBits (draw : Nat) (slot : Slot) (w : Nat) : BitVec w

/-- A free one-bit value. -/
def Config.anyBit (draw : Nat) (slot : Slot) : Bool := (Config.anyBits draw slot 1).getLsbD 0

/-- What the environment drives in a cycle the schedule does not list: an unconstrained input (45_fabric_step.md R291;
log entry 1). It has no body. -/
opaque Config.envInput (draw : Nat) : CycleInput

end Sys2Proof
end

