-- ==== Sys2Proof/WellFormed.lean ====
section
/-! DEFINITION. Which instructions and which trace statements are well formed. -/

namespace Sys2Proof

/-- A transaction kind the fabric can carry. Every `WREQ` value is legal (30_encoding.md R112); of the CSR kinds the
one with `we = 0` and `select = 0` is reserved and never issued (R111). -/
def Instr.wf : Instr → Bool
  | .wbRead _ _ _ => true
  | .wbWrite _ _ _ => true
  | .csrRead _ _ => true
  | .csrWrite _ _ => true
  | .csrWriteNosel _ _ => true
  | .csrReserved _ _ => false

/-- A trace statement the notation admits: `RD` and `WR` take a multiple of 4 (30_encoding.md R115), the byte forms
any main-bus byte address, the halfword forms an even one (R116). -/
def Stmt.wf : Stmt → Bool
  | .rd addr _ => decide (addr % 4 = 0 ∧ addr < 2 ^ 32)
  | .wr addr _ _ => decide (addr % 4 = 0 ∧ addr < 2 ^ 32)
  | .rdb addr => decide (addr < 2 ^ 32)
  | .wrb addr _ => decide (addr < 2 ^ 32)
  | .rdh addr => decide (addr % 2 = 0 ∧ addr < 2 ^ 32)
  | .wrh addr _ => decide (addr % 2 = 0 ∧ addr < 2 ^ 32)
  | .idle _ => true

/-- A trace program for `n` initiators: every line names one of them (30_encoding.md R115), and every statement is one
the notation admits. -/
def traceWf (n : Nat) (tr : Trace) : Bool := tr.all (fun l => decide (l.initiator < n) && l.stmt.wf)

end Sys2Proof
end

