-- ==== Sys2Proof/Decode.lean ====
section
/-! DEFINITION. Packed formats (30_encoding.md R104 to R106), the decoder of a packed request into its transaction
kind (R108, R109), the byte form the host hands it in, the encoder, and the expansion of trace statements (R115,
R116). -/

namespace Sys2Proof

/-- `WREQ = {adr, we, sel, dat_w}` (R104). -/
def BusReq.pack (q : BusReq) : Wreq := q.adr ++ BitVec.ofBool q.we ++ q.sel ++ q.datW

/-- The fields of a `WREQ` (R104). -/
def BusReq.unpack (w : Wreq) : BusReq :=
  { adr := w.extractLsb' 37 30, we := w.getLsbD 36, sel := w.extractLsb' 32 4, datW := w.extractLsb' 0 32 }

/-- `WRSP = {err, ack, dat_r}` (R105). -/
def BusRsp.pack (r : BusRsp) : Wrsp := BitVec.ofBool r.err ++ BitVec.ofBool r.ack ++ r.datR

/-- The fields of a `WRSP` (R105). -/
def BusRsp.unpack (w : Wrsp) : BusRsp :=
  { ack := w.getLsbD 32, err := w.getLsbD 33, datR := w.extractLsb' 0 32 }

/-- `CREQ = {adr, we, select, dat_w}` (R106). -/
def BeatReq.pack (q : BeatReq) : Creq := q.adr ++ BitVec.ofBool q.we ++ BitVec.ofBool q.select ++ q.datW

/-- The fields of a `CREQ` (R106). -/
def BeatReq.unpack (w : Creq) : BeatReq :=
  { adr := w.extractLsb' 10 28, we := w.getLsbD 9, select := w.getLsbD 8, datW := w.extractLsb' 0 8 }

/-- `CRSP`: `err`, `ack`, `dat_r` (R106). -/
def BeatRsp.pack (r : BeatRsp) : Crsp := BitVec.ofBool r.err ++ BitVec.ofBool r.ack ++ r.datR

/-- The fields of a `CRSP` (R106). -/
def BeatRsp.unpack (w : Crsp) : BeatRsp :=
  { ack := w.getLsbD 8, err := w.getLsbD 9, datR := w.extractLsb' 0 8 }

/-- The transaction kind of a main-bus request, by `WREQ[36]` alone (R108); every value has one (R112). -/
def decodeWreq (w : Wreq) : Instr :=
  let q := BusReq.unpack w
  if q.we then .wbWrite q.adr q.sel q.datW else .wbRead q.adr q.sel q.datW

/-- The beat kind of a CSR beat request, by `CREQ[9:8]` (R109, R111). -/
def decodeCreq (w : Creq) : Instr :=
  let q := BeatReq.unpack w
  match q.we, q.select with
  | false, true => .csrRead q.adr q.datW
  | true, true => .csrWrite q.adr q.datW
  | true, false => .csrWriteNosel q.adr q.datW
  | false, false => .csrReserved q.adr q.datW

/-- A packed request together with the bus it belongs to: the packed words of the two buses share no tag (R104, R106),
so the port a word stands on says which format it has. -/
inductive Packet where
  | wreq (w : Wreq)
  | creq (w : Creq)
  deriving DecidableEq, Repr, Inhabited

/-- The bus a packet travels on. -/
def packetBus : Packet → Bus
  | .wreq _ => .main
  | .creq _ => .csr

/-- The transaction kind of a packet. -/
def decodePacket : Packet → Instr
  | .wreq w => decodeWreq w
  | .creq w => decodeCreq w

/-- The encoder: the packed request of a transaction kind (R104, R106, R108, R109). -/
def encode : Instr → Packet
  | .wbRead adr sel datW => .wreq (BusReq.pack { adr := adr, we := false, sel := sel, datW := datW })
  | .wbWrite adr sel datW => .wreq (BusReq.pack { adr := adr, we := true, sel := sel, datW := datW })
  | .csrRead adr datW => .creq (BeatReq.pack { adr := adr, we := false, select := true, datW := datW })
  | .csrWrite adr datW => .creq (BeatReq.pack { adr := adr, we := true, select := true, datW := datW })
  | .csrWriteNosel adr datW => .creq (BeatReq.pack { adr := adr, we := true, select := false, datW := datW })
  | .csrReserved adr datW => .creq (BeatReq.pack { adr := adr, we := false, select := false, datW := datW })

/-- Why a byte string is no packed request. -/
inductive DecodeError where
  /-- Fewer bytes than the bus's packed word takes. -/
  | truncated (bus : Bus)
  /-- A bit above the packed word's width is set. -/
  | padding (bus : Bus)
  deriving DecidableEq, Repr, Inhabited

/-- The bytes a packed word takes: 9 for 67 bits, 5 for 38. -/
def packedBytes : Bus → Nat
  | .main => 9
  | .csr => 5

/-- The width of a bus's packed request (R104, R106). -/
def packedWidth : Bus → Nat
  | .main => 67
  | .csr => 38

/-- The value of a byte string, its first byte least significant (log entry 13). -/
def bytesToNat : List Byte → Nat
  | [] => 0
  | b :: bs => b.toNat + 256 * bytesToNat bs

/-- The `n` low bytes of a value, the least significant first (log entry 13). -/
def natToBytes : Nat → Nat → List Byte
  | 0, _ => []
  | n + 1, v => BitVec.ofNat 8 v :: natToBytes n (v / 256)

/-- The packed word a bus's bits make. -/
def packetOfNat (bus : Bus) (v : Nat) : Packet :=
  match bus with
  | .main => .wreq (BitVec.ofNat 67 v)
  | .csr => .creq (BitVec.ofNat 38 v)

/-- The bits of a packet as a number, bit 0 least significant (R12). -/
def packetBits : Packet → Nat
  | .wreq w => w.toNat
  | .creq w => w.toNat

/-- The bytes of a packet. -/
def packetBytes (p : Packet) : List Byte := natToBytes (packedBytes (packetBus p)) (packetBits p)

/-- Decode the packed request at the head of a byte string on a bus, and return the rest: total, refusing by name. -/
def decodeBytes (bus : Bus) (bytes : List Byte) : Except DecodeError (Instr × List Byte) :=
  if bytes.length < packedBytes bus then .error (.truncated bus)
  else
    let v := bytesToNat (bytes.take (packedBytes bus))
    if v < 2 ^ packedWidth bus then .ok (decodePacket (packetOfNat bus v), bytes.drop (packedBytes bus))
    else .error (.padding bus)

/-- The bus a word of the opcode table belongs to (log entry 13). A word of more than 40 bits is a 67-bit `WREQ`; one of
32 bits or fewer does not reach the `WREQ`'s opcode bit 36 and is a `CREQ`. Of the widths between, which both formats
admit, a word is a `CREQ` where that gives a kind that is issued, and a `WREQ` where the `CREQ` would be the reserved kind
(R111). -/
def tableBus (nbits w : Nat) : Bus :=
  if 40 < nbits then .main
  else if 32 < nbits ∧ w / 256 % 4 = 0 then .main
  else .csr

/-- The instruction the decoder reads from a table word: the word laid out in bytes, the first byte the least
significant, on the bus it belongs to. -/
def decodeTableWord (nbits w : Nat) : Option Instr :=
  let bus := tableBus nbits w
  if w < 256 ^ packedBytes bus then
    match decodeBytes bus (natToBytes (packedBytes bus) w) with
    | .ok (i, _) => some i
    | .error _ => none
  else none

/-- The transaction a trace statement issues (R115, R116); none for `IDLE` and for a statement the notation does not
admit. -/
def stmtInstr (s : Stmt) : Option Instr :=
  if s.wf then
    match s with
    | .rd a sel => some (.wbRead (BitVec.ofNat 30 (a / 4)) sel 0)
    | .wr a data sel => some (.wbWrite (BitVec.ofNat 30 (a / 4)) sel data)
    | .rdb a => some (.wbRead (BitVec.ofNat 30 (a / 4)) ((1 : Lanes) <<< (a % 4)) 0)
    | .wrb a b => some (.wbWrite (BitVec.ofNat 30 (a / 4)) ((1 : Lanes) <<< (a % 4)) (b.setWidth 32 <<< (8 * (a % 4))))
    | .rdh a => some (.wbRead (BitVec.ofNat 30 (a / 4)) ((3 : Lanes) <<< (a % 4)) 0)
    | .wrh a h => some (.wbWrite (BitVec.ofNat 30 (a / 4)) ((3 : Lanes) <<< (a % 4)) (h.setWidth 32 <<< (8 * (a % 4))))
    | .idle _ => none
  else none

/-- The packed word a trace statement puts on its initiator's port (R115). -/
def stmtPacket (s : Stmt) : Option Packet := (stmtInstr s).map encode

/-- What a statement has its initiator do (R115, R116); none for a statement the notation does not admit. -/
def stmtOp (s : Stmt) : Option TraceOp :=
  match s with
  | .idle n => some (.idle n)
  | .rd _ _ | .wr _ _ _ | .rdb _ | .wrb _ _ | .rdh _ | .wrh _ _ =>
    match stmtPacket s with
    | some (.wreq w) => some (.issue w)
    | some (.creq _) => none
    | none => none

/-- The byte `RDB` reads, `dat_r[8(a&3)+7 : 8(a&3)]` (R116). -/
def rdbByte (addr : Nat) (datR : Word) : Byte := datR.extractLsb' (8 * (addr % 4)) 8

end Sys2Proof
end

