-- ==== Sys2Proof/Machine/AddressMap.lean ====
section
/-! DEFINITION. Construction and routing (40_address_map.md): the checks of `add` and `add_initiator` in their order,
the check a configuration passes as a whole, `route`, and the configuration of this hardware (20_memory.md R63, R64). -/

namespace Sys2Proof.Machine

/-- `clog2(s)`: the least `k` with `2^k >= s` (00_scope.md R12). -/
def clog2 (s : Nat) : Nat := if s ≤ 1 then 0 else Nat.log2 (s - 1) + 1

/-- Two windows share a byte address; windows that only touch do not (R133). -/
def overlaps (r : Region) (base size : Nat) : Bool :=
  decide (r.base < base + size ∧ base < r.base + r.size)

/-- The byte address lies in the region's window `[base, base + size)` (R130, R140). -/
def contains (r : Region) (a : Nat) : Bool := decide (r.base ≤ a ∧ a < r.base + r.size)

/-- The checks `add` makes, in R132's order; the first that fails names the error. DESIGN CHOICE (log entry 27): where the
new window intersects several registered ones, `OverlapError` names the first of them in registration order; R132 says
only that one exists. DESIGN CHOICE (log entry 30): a window of the whole address space (`base` 0, size exactly `2^A` or `2^AC`)
is accepted, as the checks of R132 and R135 have it, although R130 calls a size a natural below that. -/
def addCheck (started : Bool) (bus : Bus) (regions : List Region) (t : TargetPort) (name : String) (base : Nat) :
    Option BuildError :=
  if started then some (.lateRegistration name)
  else if t.size = 0 then some (.zeroSize name)
  else if t.dataWidth ≠ bus.width ∨ t.granularity ≠ bus.granularity then some (.widthMismatch name)
  else if 2 ^ bus.addrBits < base + t.size then some (.range name)
  else if bus = .main ∧ (base % 4 ≠ 0 ∨ t.size % 4 ≠ 0) then some (.misalignedRegion name)
  else if requireAligned ∧ base % 2 ^ clog2 t.size ≠ 0 then some (.misalignedRegion name)
  else if regions.any (fun r => r.name == name) then some (.duplicateName name)
  else (regions.find? (fun r => overlaps r base t.size)).map (fun r => .overlap name r.name)

/-- The region `add` appends (R132). -/
def newRegion (t : TargetPort) (name : String) (base : Nat) : Region :=
  { name := name, base := base, size := t.size, granularity := t.granularity, target := t.target }

/-- `add(map, target, name, base)` on a list of regions (R132). -/
def addRegion (started : Bool) (bus : Bus) (regions : List Region) (t : TargetPort) (name : String) (base : Nat) :
    Except BuildError (List Region) :=
  match addCheck started bus regions t name base with
  | some e => .error e
  | none => .ok (regions ++ [newRegion t name base])

/-- The checks `add_initiator` makes, in R141's order. -/
def initiatorCheck (started : Bool) (p : InitiatorPort) : Option BuildError :=
  if started then some (.lateRegistration p.name)
  else if p.dataWidth ≠ Bus.main.width ∨ p.granularity ≠ Bus.main.granularity then some (.widthMismatch p.name)
  else none

/-- The port that registers a region of a bus again: its width is the bus's, since a region of another width was
refused when it was added (R138). -/
def regionPort (bus : Bus) (r : Region) : TargetPort :=
  { target := r.target, size := r.size, dataWidth := bus.width, granularity := r.granularity }

/-- The first error met when the regions of `todo` are added, in order, after those of `done`. -/
def regionsError (bus : Bus) (done : List Region) : List Region → Option BuildError
  | [] => none
  | r :: todo =>
    match addCheck false bus done (regionPort bus r) r.name r.base with
    | some e => some e
    | none => regionsError bus (done ++ [r]) todo

/-- The construction error of a configuration, `none` where every check of R132 to R142 passes. Initiators come first,
then the main map, then the CSR map, then the check made when the fabric starts (log entry 20). -/
def configError (cfg : Config) : Option BuildError :=
  match cfg.initiators.findSome? (initiatorCheck false) with
  | some e => some e
  | none =>
    match regionsError .main [] cfg.mainMap with
    | some e => some e
    | none =>
      match regionsError .csr [] cfg.csrMap with
      | some e => some e
      | none => if cfg.initiators = [] then some .noInitiator else none

/-- `route` over a map whose first region has the place `k`. -/
def routeFrom (k : Nat) : List Region → Nat → Option (Nat × Region)
  | [], _ => none
  | r :: rest, a => if contains r a then some (k, r) else routeFrom (k + 1) rest a

/-- `route(map, a)`: the region whose window contains the byte address, with its place in the map, which names its
port (R140). -/
def route (map : List Region) (a : Nat) : Option (Nat × Region) := routeFrom 0 map a

/-- A registered main-bus region (32-bit, granularity 8). -/
def mainRegion (name : String) (base size : Nat) (target : Target) : Region :=
  { name := name, base := base, size := size, granularity := 8, target := target }

/-- A registered CSR region (8-bit, granularity 8). -/
def csrRegion (name : String) (base size : Nat) : Region :=
  { name := name, base := base, size := size, granularity := 8, target := .external }

/-- `MAIN_MAP` of this hardware (20_memory.md R63). -/
def hardwareMainMap (o : OpenSizes) : List Region :=
  [mainRegion "flash" flashBase o.flash .external,
   mainRegion "sram" sramBase sramSize .external,
   mainRegion "debug" debugBase o.debug .external,
   mainRegion "csr" csrBase csrWindowSize .bridge]

/-- `CSR_MAP` of this hardware (20_memory.md R64). -/
def hardwareCsrMap (o : OpenSizes) : List Region :=
  [csrRegion "gpio" gpioBase gpioCsrSize,
   csrRegion "uart" uartBase o.uart,
   csrRegion "id" idBase o.id]

/-- The configuration of this hardware over its OPEN parameters (R10, R145). -/
def hardwareConfig (o : OpenSizes) (initiators : List InitiatorPort) : Config :=
  { initiators := initiators, mainMap := hardwareMainMap o, csrMap := hardwareCsrMap o }

/-- The bounds of 00_scope.md R11 on the OPEN sizes. -/
def openSizesOk (o : OpenSizes) : Bool :=
  decide (1 ≤ o.flash ∧ o.flash ≤ 0x10000000 ∧ o.flash % 4 = 0 ∧ 1 ≤ o.debug ∧ o.debug ≤ 0x10000000 ∧ o.debug % 4 = 0 ∧
    1 ≤ o.uart ∧ o.uart ≤ 0x02000000 ∧ 1 ≤ o.id ∧ o.id ≤ 0x04000000)

/-- The boot address lies in the `flash` window (20_memory.md R66; 93_implementation_defined.md row 15). -/
def bootMapped (o : OpenSizes) : Bool := decide (0x00100000 < o.flash)

/-- An initiator port of the main bus's shape. -/
def mainInitiator (name : String) : InitiatorPort := { name := name, dataWidth := 32, granularity := 8 }

/-- The example values 95_test_vectors.md gives the OPEN sizes (log entry 4). -/
def exampleSizes : OpenSizes := { flash := 0x01000000, debug := 0x1000, uart := 0x20, id := 0x10 }

/-- The three initiators R10 names, in an order no source gives (log entry 4). -/
def exampleInitiators : List InitiatorPort :=
  [mainInitiator "cpu_instruction", mainInitiator "cpu_data", mainInitiator "debug_unit"]

/-- The configuration State.reset carries. -/
def exampleConfig : Config := hardwareConfig exampleSizes exampleInitiators

end Sys2Proof.Machine
end

