-- ==== Sys2Proof/Machine/State.lean ====
section
/-! DEFINITION. The state of the fabric (10_state.md R30, R35 to R44, R47), the model's own fields beside it, the
reasons a step can stop, and the state right after reset (R49). -/

namespace Sys2Proof.Machine

/-- The phases of the CsrBridge (R38); the fourth 2-bit value is unreachable and has no name. -/
inductive BrPhase where
  | idle
  | busy
  | done
  deriving DecidableEq, Repr, Inhabited

/-- The model faults (45_fabric_step.md R298: a closed list with one constructor). -/
inductive Fault where
  /-- Initiator `i` dropped its request line or changed its request in cycle `cycle` before its transaction completed.
  Raised by the hold-duty check of every cycle (R296) and RECORDED in `State.faults`: the step goes on (R295), and a run
  with a fault satisfies no claim (R298). Safe: a claim takes an empty `faults` as a premise. -/
  | initiatorProtocol (i cycle : Nat)
  deriving DecidableEq, Repr, Inhabited

/-- What is refused and given no meaning (45_fabric_step.md R299: a closed list). -/
inductive Refusal where
  /-- An instruction that has no meaning yet, raised by its arm of `exec`. Safe. -/
  | notModelled (mnemonic : String)
  /-- R299 (a) and (b): the configuration fails a construction check (raised by `step`), or a registration fails one,
  `LateRegistrationError` among them (raised by `addTarget` and `addInitiator`). Safe: no machine exists. -/
  | construction (e : BuildError)
  /-- R299 (c), R111: "CSR read with select 0 is never issued", raised by the meaning of CSR_RESERVED. Safe. -/
  | csrReadWithSelectZero
  deriving DecidableEq, Repr, Inhabited

/-- The CsrBridge's registers `br_phase`, `br_k`, `br_adr`, `br_we`, `br_dat`, `br_sel`, `br_rbuf` and `br_err`
(R38 to R43). -/
structure Bridge where
  phase : BrPhase
  k     : BeatIndex
  adr   : BridgeAddr
  we    : Bool
  dat   : Word
  sel   : Lanes
  rbuf  : Word
  err   : Bool
  deriving DecidableEq, Repr, Inhabited

/-- The request side of the shared bus or of a target port `T[r]` (30_encoding.md R100); on a target port `q.adr` is
the local word offset (R102). -/
structure MainPort where
  req : Bool
  q   : BusReq
  deriving DecidableEq, Repr, Inhabited

/-- The CsrBridge's main-bus input `bin`: the rebased request, with a 26-bit word offset. -/
structure BridgePort where
  req  : Bool
  adr  : BridgeAddr
  we   : Bool
  sel  : Lanes
  datW : Word
  deriving DecidableEq, Repr, Inhabited

/-- The request side of the CSR sub-bus or of a target port `U[u]` (30_encoding.md R103); on a target port `q.adr` is
the local byte offset (R102). -/
structure CsrPort where
  req : Bool
  q   : BeatReq
  deriving DecidableEq, Repr, Inhabited

/-- The signals of one cycle, in the order of 45_fabric_step.md R293: `S`, `T[*]`, `bin`, `C`, `U[*]`, `csr_rsp`,
`br_rsp`, `dec_rsp` and the responses on `I[*]`; and the run-time errors raised in the cycle (60_exceptions.md R320),
which travel on no wire. -/
structure Signals where
  shared     : MainPort
  targets    : List MainPort
  bridgeIn   : BridgePort
  beat       : CsrPort
  csrTargets : List CsrPort
  csrRsp     : BeatRsp
  brRsp      : BusRsp
  decRsp     : BusRsp
  iniRsp     : List BusRsp
  busError   : Option BusError
  beatError  : Option BusError
  deriving DecidableEq, Repr, Inhabited

/-- The machine's state. `cfg` to `csrErr` are the spec's; `held` and `faults` are its model-only bookkeeping (R47);
the rest is the model's own (log entries 1, 2, 6, 7 and 8). -/
structure State where
  /-- The configuration (R34); no step changes it. -/
  cfg     : Config
  /-- Construction has ended (40_address_map.md R137). -/
  started : Bool
  /-- The initiator that holds the shared bus (R35). -/
  grant   : Option Nat
  /-- The round-robin pointer (R36). -/
  last    : Nat
  /-- A synthesized main-bus error is due in this cycle (R37). -/
  decErr  : Bool
  /-- The CsrBridge (R38 to R43). -/
  br      : Bridge
  /-- A synthesized CSR error is due in this cycle (R44). -/
  csrErr  : Bool
  /-- The request each initiator raised and has not seen complete (R47). -/
  held    : List (Option Wreq)
  /-- The faults recorded so far (R47, R298). -/
  faults  : List Fault
  /-- The index of the current cycle, which a fault records (R298). -/
  cycle   : Nat
  /-- The counter free values are drawn by (R295). -/
  draw    : Nat
  /-- The environment's signals in this cycle and those to come (R291, R295). -/
  inputs  : List CycleInput
  /-- Beats a bench drives on the CSR sub-bus of a CsrDecoder on its own (R299 c); empty in the fabric. -/
  bench   : List Creq
  /-- The signals of the cycle just ended (the Outputs of R295). -/
  sig     : Signals
  deriving DecidableEq, Repr, Inhabited

/-- The environment's signals in the current cycle: the head of the schedule, and an unconstrained input once the
schedule is exhausted. -/
def State.input (s : State) : CycleInput :=
  match s.inputs with
  | inp :: _ => inp
  | [] => Config.envInput s.draw

/-- A request port nothing has driven yet. -/
def undrivenMain : MainPort := { req := false, q := { adr := 0, we := false, sel := 0, datW := 0 } }

/-- A beat port nothing has driven yet. -/
def undrivenCsr : CsrPort := { req := false, q := { adr := 0, we := false, select := false, datW := 0 } }

/-- The signals before the first cycle: nothing has been driven (log entry 6). -/
def undrivenSignals : Signals :=
  { shared := undrivenMain
    targets := []
    bridgeIn := { req := false, adr := 0, we := false, sel := 0, datW := 0 }
    beat := undrivenCsr
    csrTargets := []
    csrRsp := { ack := false, err := false, datR := 0 }
    brRsp := { ack := false, err := false, datR := 0 }
    decRsp := { ack := false, err := false, datR := 0 }
    iniRsp := []
    busError := none
    beatError := none }

/-- The CsrBridge in State.reset: `Idle`, cursor and error clear (R49); the fields R49 leaves unspecified are 0
(log entry 3). -/
def resetBridge : Bridge :=
  { phase := .idle, k := 0, adr := 0, we := false, dat := 0, sel := 0, rbuf := 0, err := false }

/-- The state right after reset of a fabric with a given configuration (R49). -/
def State.resetOf (cfg : Config) : State :=
  { cfg := cfg
    started := false
    grant := none
    last := cfg.n - 1
    decErr := false
    br := resetBridge
    csrErr := false
    held := List.replicate cfg.n none
    faults := []
    cycle := 0
    draw := 0
    inputs := []
    bench := []
    sig := undrivenSignals }

/-- The state right after reset of this hardware, its OPEN parameters at the example values (log entry 4). -/
def State.reset : State := State.resetOf exampleConfig

end Sys2Proof.Machine
end

