-- ==== Sys2Proof/Machine/Flags.lean ====
section
/-! DEFINITION. The fabric has no status flags (10_state.md R32). What it has are the two one-bit registers that hold a
synthesized error back by one cycle (41_decoder.md R166, 44_csr_decoder.md R274), and the cause of a run-time error,
which the model names and no wire carries (60_exceptions.md R320). -/

namespace Sys2Proof.Machine

/-- The next value of `dec_err` or `csr_err`: set when a request is on the bus, no window holds its address, and the
error is not already due (R166, R274). -/
def dueError (req : Bool) (routed : Option (Nat × Region)) (due : Bool) : Bool := req && routed.isNone && !due

/-- The cause of a failing beat, by the region its address is routed to: `unmapped_csr` (code 10) or `csr_target`
(code 11). -/
def beatCause (routed : Option (Nat × Region)) : BusError :=
  match routed with
  | none => .unmappedCsr
  | some _ => .csrTarget

/-- The cause of an error response on the shared bus: `unmapped` where the Decoder synthesizes it (code 8), `target`
where a main-bus target answers with it (code 9), and the cause of the failing beat where the CsrBridge's aggregate
response carries it (codes 10 and 11, "per beat, then per transaction"). `routedBeat` is where the CsrBridge's current
beat address is routed, which after an abort is the failing beat's (10_state.md R39). -/
def mainErrorCause (routed routedBeat : Option (Nat × Region)) (rsp : BusRsp) : Option BusError :=
  if rsp.err then
    match routed with
    | none => some .unmapped
    | some (_, r) => if r.target = .external then some .target else some (beatCause routedBeat)
  else none

/-- The cause of an error response on the CSR sub-bus (R320). -/
def beatErrorCause (routed : Option (Nat × Region)) (rsp : BeatRsp) : Option BusError :=
  if rsp.err then some (beatCause routed) else none

/-- The model's code of a construction error (R320). -/
def buildErrorCode : BuildError → Nat
  | .overlap _ _ => 0
  | .lateRegistration _ => 1
  | .zeroSize _ => 2
  | .range _ => 3
  | .misalignedRegion _ => 4
  | .widthMismatch _ => 5
  | .duplicateName _ => 6
  | .noInitiator => 7

/-- The model's code of a run-time error (R320). -/
def busErrorCode : BusError → Nat
  | .unmapped => 8
  | .target => 9
  | .unmappedCsr => 10
  | .csrTarget => 11

/-- The model's code of a fault (R320). -/
def faultCode : Fault → Nat
  | .initiatorProtocol _ _ => 12

end Sys2Proof.Machine
end

