-- ==== Sys2Proof/Machine/Operands.lean ====
section
/-! DEFINITION. The operands of a transaction: byte lanes (20_memory.md R67, R68), byte addresses (R60) and the
rebasing of an address into its target's space (41_decoder.md R162, 44_csr_decoder.md R271). -/

namespace Sys2Proof.Machine

/-- Lane `j` of a main-bus word, bits `[8j+7:8j]` (R67). -/
def lane (w : Word) (j : Nat) : Byte := w.extractLsb' (8 * j) 8

/-- A word with lane `j` replaced (10_state.md R42: `rbuf[k]`). -/
def setLane (w : Word) (j : Nat) (b : Byte) : Word :=
  (w &&& ~~~(0xff#32 <<< (8 * j))) ||| (b.setWidth 32 <<< (8 * j))

/-- A word whose lanes below `k` come from one word and the others from another (43_csr_bridge.md R238). -/
def mergeLanes (k : Nat) (low high : Word) : Word :=
  (low &&& ~~~(0xffffffff#32 <<< (8 * k))) ||| (high &&& (0xffffffff#32 <<< (8 * k)))

/-- The word whose lanes are four bytes, the first in lane 0 (R68, R69). -/
def wordOfLanes (b0 b1 b2 b3 : Byte) : Word := b3 ++ b2 ++ b1 ++ b0

/-- The byte address of a word address (R60). -/
def byteAddr (adr : WordAddr) : Nat := 4 * adr.toNat

/-- The width of the address field of `T[r]`, `clog2(s/4)` bits for a region of size `s` (30_encoding.md R102). -/
def mainAdrBits (r : Region) : Nat := clog2 (r.size / 4)

/-- The width of the address field of `U[u]`, `clog2(s)` bits for a region of size `s` (30_encoding.md R102). -/
def csrAdrBits (r : Region) : Nat := clog2 r.size

/-- The width of the address field at a place of a map whose regions have fields of `bits`; a place the map does not have
has no field. -/
def fieldBits (bits : Region → Nat) (map : List Region) (k : Nat) : Nat := (map[k]?.map bits).getD 0

/-- What an address field of `bits` bits carries of a value, held in `w` bits with zeros above the field. -/
def onField (bits : Nat) {w : Nat} (v : BitVec w) : BitVec w := (v.setWidth bits).setWidth w

/-- `adr_local = S.adr - t.base/4` (41_decoder.md R162), on the port's address field (30_encoding.md R102). -/
def rebaseWord (r : Region) (adr : WordAddr) : WordAddr :=
  onField (mainAdrBits r) (adr - BitVec.ofNat 30 (r.base / 4))

/-- `C.adr - u.base` (44_csr_decoder.md R271), on the port's address field (30_encoding.md R102). -/
def rebaseByte (r : Region) (adr : CsrAddr) : CsrAddr := onField (csrAdrBits r) (adr - BitVec.ofNat 28 r.base)

/-- The CSR-local byte address of beat `k`, `4 * br_adr + k` (43_csr_bridge.md R233). -/
def beatAddr (adr : BridgeAddr) (k : BeatIndex) : CsrAddr := adr ++ k

/-- The kind of a main-bus response (30_encoding.md R110): `err` decides before `ack`. -/
def rspKind (ack err : Bool) : RspKind := if err then .error else if ack then .ok else .none

/-- A response that completes its transaction (00_scope.md R16, 30_encoding.md R110). -/
def completes (ack err : Bool) : Bool := ack || err

end Sys2Proof.Machine
end

