-- ==== Sys2Proof/Machine/Ops.lean ====
section
/-! DEFINITION. The operations every component shares: reading the environment's lines, the response that means "no
completion", the synthesized bus error (the fabric's only exception: 60_exceptions.md R323), and the initiator hold
duty (45_fabric_step.md R296). -/

namespace Sys2Proof.Machine

/-- What initiator `i` drives in a cycle; a line the input entry does not list carries no request. -/
def requestLine (draw : Nat) (inp : CycleInput) (i : Nat) : RequestLine :=
  inp.ini.getD i { req := false, word := Config.anyBits draw (.undrivenRequest i) 67 }

/-- A main-bus response of kind none, its data a free value (30_encoding.md R110, R113). -/
def noAnswer (draw : Nat) (slot : Slot) : BusRsp :=
  { ack := false, err := false, datR := Config.anyBits draw slot 32 }

/-- A CSR response of kind none, its data a free value (R110, R113). -/
def noBeatAnswer (draw : Nat) (slot : Slot) : BeatRsp :=
  { ack := false, err := false, datR := Config.anyBits draw slot 8 }

/-- What `T[r]` drives in a cycle; a port the input entry does not list answers nothing. -/
def mainAnswer (draw : Nat) (inp : CycleInput) (r : Nat) : BusRsp :=
  inp.main.getD r (noAnswer draw (.undrivenMain r))

/-- What `U[u]` drives in a cycle; a port the input entry does not list answers nothing. -/
def csrAnswer (draw : Nat) (inp : CycleInput) (u : Nat) : BeatRsp :=
  inp.csr.getD u (noBeatAnswer draw (.undrivenCsr u))

/-- `raise BusError` by the main Decoder: the synthesized error response (41_decoder.md R166). Nothing is saved and no
control is transferred (60_exceptions.md R323, R326). -/
def synthesizedError : BusRsp := { ack := true, err := true, datR := 0 }

/-- `raise BusError` by the CsrDecoder (44_csr_decoder.md R274). -/
def synthesizedBeatError : BeatRsp := { ack := true, err := true, datR := 0 }

/-- Free request fields on a main-bus port with `req = 0` (41_decoder.md R163), its address field `bits` wide
(30_encoding.md R102). -/
def idleMain (draw : Nat) (slot : Field → Slot) (bits : Nat) : MainPort :=
  { req := false
    q := { adr := onField bits (Config.anyBits draw (slot .adr) 30)
           we := Config.anyBit draw (slot .we)
           sel := Config.anyBits draw (slot .sel) 4
           datW := Config.anyBits draw (slot .dat) 32 } }

/-- Free request fields on a CSR port with `req = 0` (43_csr_bridge.md R232, 44_csr_decoder.md R272), its address field
`bits` wide (30_encoding.md R102). -/
def idleCsr (draw : Nat) (slot : Field → Slot) (bits : Nat) : CsrPort :=
  { req := false
    q := { adr := onField bits (Config.anyBits draw (slot .adr) 28)
           we := Config.anyBit draw (slot .we)
           select := Config.anyBit draw (slot .sel)
           datW := Config.anyBits draw (slot .dat) 8 } }

/-- The request an initiator has raised and not seen complete (10_state.md R47). -/
def heldBy (held : List (Option Wreq)) (i : Nat) : Option Wreq := held.getD i none

/-- Initiator with held request `h` breaks its duty with the line it drives (R296). -/
def breaksDuty (h : Option Wreq) (line : RequestLine) : Bool :=
  match h with
  | none => false
  | some q => !line.req || line.word != q

/-- The next held request of an initiator (R296): cleared at completion, taken when a transaction begins. -/
def heldNext (h : Option Wreq) (line : RequestLine) (rsp : BusRsp) : Option Wreq :=
  if completes rsp.ack rsp.err then none
  else
    match h with
    | some q => some q
    | none => if line.req then some line.word else none

/-- The faults of one cycle: an `InitiatorProtocol(i, cycle)` for every initiator that breaks its duty (R296). -/
def cycleFaults (draw cycle n : Nat) (held : List (Option Wreq)) (inp : CycleInput) : List Fault :=
  ((List.range n).filter (fun i => breaksDuty (heldBy held i) (requestLine draw inp i))).map
    (fun i => .initiatorProtocol i cycle)

/-- The fault set with more faults in it: nothing is removed and nothing repeats (R47). -/
def addFaults (old new : List Fault) : List Fault := old ++ new.filter (fun f => !old.contains f)

end Sys2Proof.Machine
end

