-- ==== Sys2Proof/Machine/Construct.lean ====
section
/-! DEFINITION. The construction operations as operations of the machine (40_address_map.md R132, R137, R141): each
answers the state of the fabric being built, in its reset values, or refuses with the error's name. -/

namespace Sys2Proof.Machine

/-- The state with the regions of one bus replaced. -/
def withMap (s : State) (bus : Bus) (regions : List Region) : State :=
  match bus with
  | .main => { s with cfg := { s.cfg with mainMap := regions } }
  | .csr => { s with cfg := { s.cfg with csrMap := regions } }

/-- `add(map, target, name, base)` (R132); after start it is refused with `LateRegistrationError` (R137, R299 b). -/
def addTarget (s : State) (bus : Bus) (t : TargetPort) (name : String) (base : Nat) :
    Host.Outcome State Fault Refusal :=
  match addRegion s.started bus (s.cfg.map bus) t name base with
  | .error e => .refused (.construction e)
  | .ok regions => .next (withMap s bus regions)

/-- The state with one more initiator: the pointer's and the held requests' reset values depend on `N` (10_state.md
R36, R47; log entry 22). -/
def withInitiator (s : State) (p : InitiatorPort) : State :=
  { s with
    cfg := { s.cfg with initiators := s.cfg.initiators ++ [p] }
    last := s.cfg.n
    held := List.replicate (s.cfg.n + 1) none }

/-- `add_initiator(port)` (R141); after start it is refused with `LateRegistrationError`. -/
def addInitiator (s : State) (p : InitiatorPort) : Host.Outcome State Fault Refusal :=
  match initiatorCheck s.started p with
  | some e => .refused (.construction e)
  | none => .next (withInitiator s p)

/-- The state before any registration: a fabric with no initiator and two empty maps, not started. -/
def unbuilt : State := State.resetOf { initiators := [], mainMap := [], csrMap := [] }

end Sys2Proof.Machine
end

