-- ==== Sys2Proof/Machine/Arbiter.lean ====
section
/-! DEFINITION. The Arbiter (42_arbiter.md): selection, grant, forwarding, response return and release. -/

namespace Sys2Proof.Machine

/-- The initiator is requesting: it is in `pending` (10_state.md R45). -/
def requesting (draw : Nat) (inp : CycleInput) (i : Nat) : Bool := (requestLine draw inp i).req

/-- The order in which the search looks at the initiators: from the one after `last`, wrapping, `last` itself at the
end (R191). -/
def searchOrder (n last : Nat) : List Nat := (List.range n).map (fun j => (last + 1 + j) % n)

/-- `select(last, pending)` (R191); none where nobody requests. -/
def select (n last : Nat) (pending : Nat → Bool) : Option Nat := (searchOrder n last).find? pending

/-- The grant after an edge: made by selection while there is none (R193), released at a completion (R196). -/
def grantNext (n last : Nat) (grant : Option Nat) (pending : Nat → Bool) (decRsp : BusRsp) : Option Nat :=
  match grant with
  | none => select n last pending
  | some g => if completes decRsp.ack decRsp.err then none else some g

/-- The pointer after an edge: it moves only when a grant is made (R193). -/
def lastNext (n last : Nat) (grant : Option Nat) (pending : Nat → Bool) : Nat :=
  match grant with
  | none => (select n last pending).getD last
  | some _ => last

/-- The shared-bus request `S`: the granted initiator's lines, verbatim (R194). -/
def arbiterForward (draw : Nat) (grant : Option Nat) (inp : CycleInput) : MainPort :=
  match grant with
  | none => idleMain draw .shared 30
  | some g =>
    let line := requestLine draw inp g
    { req := line.req, q := BusReq.unpack line.word }

/-- The response on `I[i]`: the Decoder's, to the granted initiator alone (R195). -/
def arbiterReturn (draw : Nat) (grant : Option Nat) (decRsp : BusRsp) (i : Nat) : BusRsp :=
  if grant = some i then decRsp else noAnswer draw (.initiator i)

end Sys2Proof.Machine
end

