-- ==== Sys2Proof/Machine/CsrBridge.lean ====
section
/-! DEFINITION. The CsrBridge (43_csr_bridge.md): beat formation, beat completion, the aggregate response, and the two
wide transactions as R235 and R236 write them. -/

namespace Sys2Proof.Machine

/-- The 2-bit code of a phase: Idle = 0, Busy = 1, Done = 2 (10_state.md R38). -/
def brPhaseCode : BrPhase → BitVec 2
  | .idle => 0
  | .busy => 1
  | .done => 2

/-- The phase a 2-bit code stands for; none for the value 3, which is unreachable (10_state.md R38). -/
def brPhaseOfCode (c : BitVec 2) : Option BrPhase :=
  if c = 0 then some .idle else if c = 1 then some .busy else if c = 2 then some .done else none

/-- Beat `k` of a wide transaction at word offset `o` (R233, R235, R236): `select` is the lane's mask bit on a write and
1 on a read. -/
def beatOf (o : BridgeAddr) (we : Bool) (sel : Lanes) (dat : Word) (k : BeatIndex) : BeatReq :=
  { adr := beatAddr o k
    we := we
    select := if we then sel.getLsbD k.toNat else true
    datW := lane dat k.toNat }

/-- The CSR sub-bus request `C`: beat `br_k` while `Busy`, none otherwise (R232, R233). -/
def bridgeBeat (draw : Nat) (b : Bridge) : CsrPort :=
  match b.phase with
  | .busy => { req := true, q := beatOf b.adr b.we b.sel b.dat b.k }
  | .idle => idleCsr draw .beat 28
  | .done => idleCsr draw .beat 28

/-- `dat_r` of the aggregate response (R238): the buffer after a read, its lanes below the failing beat after an
aborted read, a free value after a write. -/
def bridgeData (draw : Nat) (b : Bridge) : Word :=
  if b.we then Config.anyBits draw .bridgeWrite 32
  else if b.err then mergeLanes b.k.toNat b.rbuf (Config.anyBits draw .bridgeAbort 32)
  else b.rbuf

/-- `br_rsp`: the aggregate response in the `Done` cycle, no completion before it (R232, R238). -/
def bridgeRsp (draw : Nat) (b : Bridge) : BusRsp :=
  match b.phase with
  | .done => { ack := true, err := b.err, datR := bridgeData draw b }
  | .idle => noAnswer draw .bridgeNone
  | .busy => noAnswer draw .bridgeNone

/-- Accept (R231): the wide request is latched and the first beat is next; the buffer is not written. -/
def bridgeAccept (b : Bridge) (bin : BridgePort) : Bridge :=
  { b with phase := .busy, k := 0, adr := bin.adr, we := bin.we, dat := bin.datW, sel := bin.sel, err := false }

/-- Beat completion (R234): an error aborts, an acknowledged beat is stored on a read and moves the cursor, the last
one ends the sequence, and an outstanding beat changes nothing. -/
def bridgeBeatEdge (b : Bridge) (rsp : BeatRsp) : Bridge :=
  if rsp.err then { b with err := true, phase := .done }
  else if rsp.ack then
    { b with
      rbuf := if b.we then b.rbuf else setLane b.rbuf b.k.toNat rsp.datR
      phase := if b.k = 3 then .done else .busy
      k := if b.k = 3 then b.k else b.k + 1 }
  else b

/-- The CsrBridge after an edge: accept in `Idle` (R231), beat completion in `Busy` (R234), back to `Idle` after `Done`
(R238). -/
def bridgeNext (b : Bridge) (bin : BridgePort) (csrRsp : BeatRsp) : Bridge :=
  match b.phase with
  | .idle => if bin.req then bridgeAccept b bin else b
  | .busy => bridgeBeatEdge b csrRsp
  | .done => { b with phase := .idle }

/-- The CsrBridge after a reset edge: the fields 10_state.md R49 leaves unspecified are free values. -/
def bridgeReset (draw : Nat) : Bridge :=
  { phase := .idle
    k := 0
    adr := Config.anyBits draw (.resetField .adr) 26
    we := Config.anyBit draw (.resetField .we)
    dat := Config.anyBits draw (.resetField .dat) 32
    sel := Config.anyBits draw (.resetField .sel) 4
    rbuf := Config.anyBits draw .resetRbuf 32
    err := false }

/-- The four beats of a wide transaction, in the order R241 gives. -/
def wideBeats (o : BridgeAddr) (we : Bool) (sel : Lanes) (dat : Word) : List BeatReq :=
  [beatOf o we sel dat 0, beatOf o we sel dat 1, beatOf o we sel dat 2, beatOf o we sel dat 3]

/-- What a wide transaction comes to: whether a beat failed, the beats issued, and the data of those that completed
without error. -/
structure WideOutcome where
  err    : Bool
  issued : List BeatReq
  data   : List Byte
  deriving DecidableEq, Repr, Inhabited

/-- The loop of R235 and R236 over the beats still to issue, at transaction level: each beat is put to the CSR sub-bus
as a whole and answered once, and the loop stops at the first error. `answer` is the sub-bus with what lies behind it, its
state threaded through. -/
def runBeats {σ : Type} (answer : σ → BeatReq → BeatRsp × σ) : σ → List BeatReq → WideOutcome × σ
  | m, [] => ({ err := false, issued := [], data := [] }, m)
  | m, q :: rest =>
    let r := answer m q
    if r.1.err then ({ err := true, issued := [q], data := [] }, r.2)
    else
      let t := runBeats answer r.2 rest
      ({ err := t.1.err, issued := q :: t.1.issued, data := r.1.datR :: t.1.data }, t.2)

/-- `CsrBridge.write(o, sel, dat_w)` at transaction level (R235). -/
def wideWrite {σ : Type} (answer : σ → BeatReq → BeatRsp × σ) (m : σ) (o : BridgeAddr) (sel : Lanes) (dat : Word) :
    WideOutcome × σ :=
  runBeats answer m (wideBeats o true sel dat)

/-- `CsrBridge.read(o)` at transaction level (R236); the mask is ignored, and `dat` is the latched data a read beat
carries and nobody reads. -/
def wideRead {σ : Type} (answer : σ → BeatReq → BeatRsp × σ) (m : σ) (o : BridgeAddr) (dat : Word) : WideOutcome × σ :=
  runBeats answer m (wideBeats o false 0 dat)

end Sys2Proof.Machine
end

