-- ==== Sys2Proof/Machine/CsrDecoder.lean ====
section
/-! DEFINITION. The CsrDecoder (44_csr_decoder.md R271 to R274). -/

namespace Sys2Proof.Machine

/-- The region a beat is routed to, with its place in `CSR_MAP`; none without a beat (R272). -/
def csrRoute (cfg : Config) (beat : CsrPort) : Option (Nat × Region) :=
  if beat.req then route cfg.csrMap beat.q.adr.toNat else none

/-- The request on `U[u]`, whose address field has `bits` bits: the rebased beat on the selected region's port, `req = 0`
on every other (R271, R272). -/
def csrTargetPort (draw bits : Nat) (routed : Option (Nat × Region)) (beat : CsrPort) (u : Nat) : CsrPort :=
  match routed with
  | none => idleCsr draw (.csrTarget u) bits
  | some (j, region) =>
    if j = u then { req := true, q := { beat.q with adr := rebaseByte region beat.q.adr } }
    else idleCsr draw (.csrTarget u) bits

/-- `csr_rsp`: the selected target's response unchanged, the synthesized error where one is due, no completion
otherwise (R273). -/
def csrDecoderRsp (draw : Nat) (routed : Option (Nat × Region)) (csrErr : Bool) (inp : CycleInput) : BeatRsp :=
  match routed with
  | some (j, _) => csrAnswer draw inp j
  | none => if csrErr then synthesizedBeatError else noBeatAnswer draw .csrDecoderNone

end Sys2Proof.Machine
end

