-- ==== Sys2Proof/Machine/Decoder.lean ====
section
/-! DEFINITION. The main Decoder (41_decoder.md R162 to R166). -/

namespace Sys2Proof.Machine

/-- The region the shared-bus request is routed to, with its place in `MAIN_MAP`; none without a request (R163). -/
def decoderRoute (cfg : Config) (shared : MainPort) : Option (Nat × Region) :=
  if shared.req then route cfg.mainMap (byteAddr shared.q.adr) else none

/-- The request on `T[r]`, whose address field has `bits` bits: the rebased request on the selected region's port,
`req = 0` on every other (R162, R163). -/
def targetPort (draw bits : Nat) (routed : Option (Nat × Region)) (shared : MainPort) (r : Nat) : MainPort :=
  match routed with
  | none => idleMain draw (.target r) bits
  | some (j, region) =>
    if j = r ∧ region.target = .external then
      { req := true, q := { shared.q with adr := rebaseWord region shared.q.adr } }
    else idleMain draw (.target r) bits

/-- The CsrBridge's input not driven (R163). -/
def idleBridgeIn (draw : Nat) : BridgePort :=
  { req := false
    adr := Config.anyBits draw (.bridgeIn .adr) 26
    we := Config.anyBit draw (.bridgeIn .we)
    sel := Config.anyBits draw (.bridgeIn .sel) 4
    datW := Config.anyBits draw (.bridgeIn .dat) 32 }

/-- The request on the CsrBridge's input `bin`, its address the word offset in the window (R162, R163). -/
def bridgeInput (draw : Nat) (routed : Option (Nat × Region)) (shared : MainPort) : BridgePort :=
  match routed with
  | none => idleBridgeIn draw
  | some (_, region) =>
    if region.target = .bridge then
      { req := true
        adr := (rebaseWord region shared.q.adr).setWidth 26
        we := shared.q.we
        sel := shared.q.sel
        datW := shared.q.datW }
    else idleBridgeIn draw

/-- `dec_rsp`: the selected target's response unchanged, the synthesized error where one is due, no completion
otherwise (R164). -/
def decoderRsp (draw : Nat) (routed : Option (Nat × Region)) (decErr : Bool) (inp : CycleInput) (brRsp : BusRsp) :
    BusRsp :=
  match routed with
  | some (j, region) => if region.target = .bridge then brRsp else mainAnswer draw inp j
  | none => if decErr then synthesizedError else noAnswer draw .decoderNone

end Sys2Proof.Machine
end

