-- ==== Sys2Proof/Machine/Cycle.lean ====
section
/-! DEFINITION. One clock cycle of the fabric (45_fabric_step.md): the combinational evaluation of R293 and the edge
update of R294. A cycle is a function of the state and of what stands on the two buses, so that the meaning of a
transaction kind is the cycle in which that transaction is on its bus. -/

namespace Sys2Proof.Machine

/-- The shared-bus request of the current cycle (R293, line 1). -/
def sharedBus (s : State) : MainPort := arbiterForward s.draw s.grant s.input

/-- The CSR sub-bus request of the current cycle (R293, line 3). -/
def csrBus (s : State) : CsrPort := bridgeBeat s.draw s.br

/-- The signals of a cycle with `shared` on the shared bus and `beat` on the CSR sub-bus (R293). -/
def signals (s : State) (shared : MainPort) (beat : CsrPort) : Signals :=
  let routed := decoderRoute s.cfg shared
  let routedCsr := csrRoute s.cfg beat
  let csrRsp := csrDecoderRsp s.draw routedCsr s.csrErr s.input
  let brRsp := bridgeRsp s.draw s.br
  let decRsp := decoderRsp s.draw routed s.decErr s.input brRsp
  { shared := shared
    targets := (List.range s.cfg.mainMap.length).map (fun r =>
      targetPort s.draw (fieldBits mainAdrBits s.cfg.mainMap r) routed shared r)
    bridgeIn := bridgeInput s.draw routed shared
    beat := beat
    csrTargets := (List.range s.cfg.csrMap.length).map (fun u =>
      csrTargetPort s.draw (fieldBits csrAdrBits s.cfg.csrMap u) routedCsr beat u)
    csrRsp := csrRsp
    brRsp := brRsp
    decRsp := decRsp
    iniRsp := (List.range s.cfg.n).map (arbiterReturn s.draw s.grant decRsp)
    busError := mainErrorCause routed (route s.cfg.csrMap (beatAddr s.br.adr s.br.k).toNat) decRsp
    beatError := beatErrorCause routedCsr csrRsp }

/-- The response on `I[i]` among a cycle's signals. -/
def responseTo (s : State) (sig : Signals) (i : Nat) : BusRsp := arbiterReturn s.draw s.grant sig.decRsp i

/-- The edge of a cycle with `rst = 1` (R294, R350): every field takes its reset value, faults are kept. -/
def resetEdge (s : State) (sig : Signals) : State :=
  { s with
    grant := none
    last := s.cfg.n - 1
    decErr := false
    br := bridgeReset s.draw
    csrErr := false
    held := List.replicate s.cfg.n none
    cycle := s.cycle + 1
    draw := s.draw + 1
    inputs := s.inputs.tail
    sig := sig }

/-- The edge of a cycle with `rst = 0` (R294): every field from the current state and the cycle's signals. -/
def runEdge (s : State) (sig : Signals) : State :=
  { s with
    started := true
    grant := grantNext s.cfg.n s.last s.grant (requesting s.draw s.input) sig.decRsp
    last := lastNext s.cfg.n s.last s.grant (requesting s.draw s.input)
    decErr := dueError sig.shared.req (decoderRoute s.cfg sig.shared) s.decErr
    br := bridgeNext s.br sig.bridgeIn sig.csrRsp
    csrErr := dueError sig.beat.req (csrRoute s.cfg sig.beat) s.csrErr
    held := (List.range s.cfg.n).map
      (fun i => heldNext (heldBy s.held i) (requestLine s.draw s.input i) (responseTo s sig i))
    faults := addFaults s.faults (cycleFaults s.draw s.cycle s.cfg.n s.held s.input)
    cycle := s.cycle + 1
    draw := s.draw + 1
    inputs := s.inputs.tail
    sig := sig }

/-- The edge update (R294): `rst = 1` overrides every other rule. -/
def edge (s : State) (sig : Signals) : State := if s.input.rst then resetEdge s sig else runEdge s sig

/-- One cycle of the fabric with `shared` on the shared bus and `beat` on the CSR sub-bus. -/
def fabricCycle (s : State) (shared : MainPort) (beat : CsrPort) : State := edge s (signals s shared beat)

/-- A cycle in which no transaction is fetched: both buses carry what the fabric itself puts there. -/
def idleCycle (s : State) : State := fabricCycle s (sharedBus s) (csrBus s)

end Sys2Proof.Machine
end

