-- ==== Sys2Proof/Machine/CsrBus.lean ====
section
/-! DEFINITION. The CSR beat kinds (44_csr_decoder.md R276 to R278; 30_encoding.md R111): one cycle in which the beat is
on the CSR sub-bus. -/

namespace Sys2Proof.Machine

/-- A beat on the CSR sub-bus. -/
def onCsr (adr : CsrAddr) (we select : Bool) (datW : Byte) : CsrPort :=
  { req := true, q := { adr := adr, we := we, select := select, datW := datW } }

/-- `CSR_READ` (R276). The beat's data lines carry what the CsrBridge drives there (43_csr_bridge.md R233; log
entry 12). -/
def execCsrRead (adr : CsrAddr) (datW : Byte) (s : State) : Host.Outcome State Fault Refusal :=
  .next (fabricCycle s (sharedBus s) (onCsr adr false true datW))

/-- `CSR_WRITE` (R277). -/
def execCsrWrite (adr : CsrAddr) (datW : Byte) (s : State) : Host.Outcome State Fault Refusal :=
  .next (fabricCycle s (sharedBus s) (onCsr adr true true datW))

/-- `CSR_WRITE_NOSEL` (R278). -/
def execCsrWriteNosel (adr : CsrAddr) (datW : Byte) (s : State) : Host.Outcome State Fault Refusal :=
  .next (fabricCycle s (sharedBus s) (onCsr adr true false datW))

/-- `CSR_RESERVED` (R111): never issued; a CsrDecoder that meets it refuses it by name. -/
def execCsrReserved (_adr : CsrAddr) (_datW : Byte) (_s : State) : Host.Outcome State Fault Refusal :=
  .refused .csrReadWithSelectZero

end Sys2Proof.Machine
end

