-- ==== Sys2Proof/Machine/MainBus.lean ====
section
/-! DEFINITION. The main-bus transaction kinds (41_decoder.md R160, R161): one cycle in which the transaction is on the
shared bus, whatever it is routed to. In the CsrBridge window the same cycles are those of 43_csr_bridge.md R235 and
R236. -/

namespace Sys2Proof.Machine

/-- A request on the shared bus. -/
def onShared (adr : WordAddr) (we : Bool) (sel : Lanes) (datW : Word) : MainPort :=
  { req := true, q := { adr := adr, we := we, sel := sel, datW := datW } }

/-- `WB_READ` (R160; through the CsrBridge 43_csr_bridge.md R236). -/
def execWbRead (adr : WordAddr) (sel : Lanes) (datW : Word) (s : State) : Host.Outcome State Fault Refusal :=
  .next (fabricCycle s (onShared adr false sel datW) (csrBus s))

/-- `WB_WRITE` (R161; through the CsrBridge 43_csr_bridge.md R235). -/
def execWbWrite (adr : WordAddr) (sel : Lanes) (datW : Word) (s : State) : Host.Outcome State Fault Refusal :=
  .next (fabricCycle s (onShared adr true sel datW) (csrBus s))

end Sys2Proof.Machine
end

