-- ==== Sys2Proof/Machine/Dispatch.lean ====
section
/-! DEFINITION. The dispatch: one arm per transaction kind. -/

namespace Sys2Proof.Machine

/-- The meaning of a transaction kind. -/
def exec (i : Instr) (s : State) : Host.Outcome State Fault Refusal :=
  match i with
  | .wbRead adr sel datW => Sys2Proof.Machine.execWbRead adr sel datW s
  | .wbWrite adr sel datW => Sys2Proof.Machine.execWbWrite adr sel datW s
  | .csrRead adr datW => Sys2Proof.Machine.execCsrRead adr datW s
  | .csrWrite adr datW => Sys2Proof.Machine.execCsrWrite adr datW s
  | .csrWriteNosel adr datW => Sys2Proof.Machine.execCsrWriteNosel adr datW s
  | .csrReserved adr datW => Sys2Proof.Machine.execCsrReserved adr datW s

end Sys2Proof.Machine
end

