-- ==== Sys2Proof/Machine/Fetch.lean ====
section
/-! DEFINITION. Which transaction kind a cycle runs (00_scope.md R3; 42_arbiter.md R194; 43_csr_bridge.md R233), and
where a packed request is put so that the next cycle runs it (log entries 14 and 15). -/

namespace Sys2Proof.Machine

/-- The packed request of the granted initiator, if it makes one (42_arbiter.md R194). -/
def sharedPacket (s : State) : Option Packet :=
  match s.grant with
  | none => none
  | some g =>
    let line := requestLine s.draw s.input g
    if line.req then some (.wreq line.word) else none

/-- The packed request the fabric runs in the current cycle. While the CsrBridge is `Busy` it is the beat on the CSR
sub-bus (43_csr_bridge.md R233), the wide request standing on the shared bus meanwhile; otherwise it is the granted
initiator's. -/
def fabricPacket (s : State) : Option Packet :=
  match s.br.phase with
  | .busy => some (.creq (csrBus s).q.pack)
  | .idle => sharedPacket s
  | .done => sharedPacket s

/-- The packed request of the current cycle: a bench's beat where there is one (R299 c), the fabric's otherwise. -/
def fetchPacket (s : State) : Option Packet :=
  match s.bench with
  | w :: _ => some (.creq w)
  | [] => fabricPacket s

/-- The transaction kind of the current cycle. -/
def fetch (s : State) : Option Instr := (fetchPacket s).map decodePacket

/-- The state with the bench's beat of this cycle taken off. -/
def takeBench (s : State) : State := { s with bench := s.bench.tail }

/-- A cycle's environment signals with one packed request on `I[0]` and nothing else driven. -/
def requestOnFirst (w : Wreq) : CycleInput := { rst := false, ini := [{ req := true, word := w }], main := [], csr := [] }

/-- A cycle's environment signals with nothing driven. -/
def quietInput : CycleInput := { rst := false, ini := [], main := [], csr := [] }

/-- A packed request put where the next cycle runs it: a `WREQ` on the port of initiator 0, which holds the grant, with
the CsrBridge in `Idle` so that no beat is on the sub-bus; a `CREQ` on the bench of the CsrDecoder. -/
def placePacket (s : State) (p : Packet) : State :=
  match p with
  | .wreq w =>
    { s with
      bench := []
      grant := some 0
      br := { s.br with phase := .idle }
      inputs := requestOnFirst w :: s.inputs }
  | .creq w => { s with bench := w :: s.bench, inputs := quietInput :: s.inputs }

/-- A table word put where the next cycle runs it (the bits above `nbits` are 0). -/
def placeTableWord (s : State) (nbits w : Nat) : State := placePacket s (packetOfNat (tableBus nbits w) w)

end Sys2Proof.Machine
end

