-- ==== Sys2Proof/Machine/Step.lean ====
section
/-! DEFINITION. The step: one clock cycle (45_fabric_step.md R294, R295) of a configuration that passes the construction
checks; one that fails a check is refused and no cycle is run (40_address_map.md R144). -/

namespace Sys2Proof.Machine

/-- One clock cycle: the transaction kind fetched has its meaning, and a cycle that fetches none is idle. -/
def step (s : State) : Host.Outcome State Fault Refusal :=
  match configError s.cfg with
  | some e => .refused (.construction e)
  | none =>
    match fetch s with
    | some i => exec i (takeBench s)
    | none => .next (idleCycle (takeBench s))

/-- The state with a table word stored where `step` fetches its next instruction. -/
def State.withFetchWord (s : State) (nbits w : Nat) : State := placeTableWord s nbits w

end Sys2Proof.Machine
end

