-- ==== Sys2Proof/Machine/Storage.lean ====
section
/-! DEFINITION. A storage target: the premise some claims make about a CSR target, never a part of the fabric
(45_fabric_step.md R292; 95_test_vectors.md, the storage targets of its configuration). Its bytes are a list of cells in
one canonical form. -/

namespace Sys2Proof.Machine

/-- The bytes a storage target holds: addresses strictly rising, no cell holding 0, an unlisted address reading 0. -/
abbrev Storage := List Host.Cell

/-- The canonical form. -/
def storageWf : Storage → Bool
  | [] => true
  | (a, b) :: rest => decide (b ≠ 0) && rest.all (fun c => decide (a < c.1)) && storageWf rest

/-- `MemRead(addr, 1)` (00_scope.md R14). -/
def storageRead : Storage → Nat → Byte
  | [], _ => 0
  | (x, v) :: rest, a => if a = x then v else storageRead rest a

/-- A cell in front of a list, unless it holds what an unlisted address reads as. -/
def consCell (a : Nat) (b : Byte) (rest : Storage) : Storage := if b = 0 then rest else (a, b) :: rest

/-- `MemWrite(addr, 1, v)` (00_scope.md R14). -/
def storageWrite : Storage → Nat → Byte → Storage
  | [], a, b => consCell a b []
  | (x, v) :: rest, a, b =>
    if a < x then consCell a b ((x, v) :: rest)
    else if a = x then consCell a b rest
    else (x, v) :: storageWrite rest a b

/-- A CSR sub-bus with nothing but storage behind it: every beat is answered `ok`, a read returns the stored byte, a
`CSR_WRITE` stores its byte and a `CSR_WRITE_NOSEL` is ignored. A premise about a target. -/
def StorageTarget (answer : Storage → BeatReq → BeatRsp × Storage) : Prop :=
  ∀ (m : Storage) (q : BeatReq),
    (answer m q).1.ack = true ∧ (answer m q).1.err = false ∧
    (q.we = false → (answer m q).1.datR = storageRead m q.adr.toNat ∧ (answer m q).2 = m) ∧
    (q.we = true → (answer m q).2 = if q.select then storageWrite m q.adr.toNat q.datW else m)

end Sys2Proof.Machine
end

