-- ==== Sys2Proof/Machine/Trace.lean ====
section
/-! DEFINITION. Running a trace program (30_encoding.md R115, R116): each initiator's driver turns its statements into the
request line of each cycle, the fabric makes its step, and the drivers take the completions (log entry 28). -/

namespace Sys2Proof.Machine

/-- An initiator running its statements: those still to begin, each with its `@<c>`; the request it holds; and the cycles
of an `IDLE` it still has to keep quiet, the current one included. -/
structure Driver where
  todo : List (Option Nat × TraceOp)
  out  : Option Wreq
  wait : Nat
  deriving DecidableEq, Repr, Inhabited

/-- A trace program in a run: the fabric, the drivers, the drivers as the program starts them, and the index `c<n>` of the
current cycle (95_test_vectors.md: cycle 0 is the first after reset is released). -/
structure TraceRun where
  state   : State
  drivers : List Driver
  program : List Driver
  cycle   : Nat
  deriving DecidableEq, Repr, Inhabited

/-- The driver of initiator `i` at the start of a program: its own lines, in order. -/
def driverOf (tr : Trace) (i : Nat) : Driver :=
  { todo := tr.filterMap (fun l => if l.initiator = i then (stmtOp l.stmt).map (fun op => (l.start, op)) else none)
    out := none
    wait := 0 }

/-- A line `@<c>` holds its statement back in cycle `c'` (R115). -/
def heldBack (start : Option Nat) (c : Nat) : Bool :=
  match start with
  | none => false
  | some c0 => decide (c < c0)

/-- A driver with nothing in hand begins what it can in cycle `c`: one request, or one `IDLE`; an `IDLE 0` takes no
cycle. -/
def beginNext (c : Nat) : List (Option Nat × TraceOp) → Driver
  | [] => { todo := [], out := none, wait := 0 }
  | (start, op) :: rest =>
    if heldBack start c then { todo := (start, op) :: rest, out := none, wait := 0 }
    else
      match op with
      | .issue w => { todo := rest, out := some w, wait := 0 }
      | .idle 0 => beginNext c rest
      | .idle (n + 1) => { todo := rest, out := none, wait := n + 1 }

/-- The driver in cycle `c`: it holds its request (45_fabric_step.md R296) or keeps its `IDLE`, and otherwise begins. -/
def driverBegin (c : Nat) (d : Driver) : Driver :=
  if d.out.isSome || decide (0 < d.wait) then d else beginNext c d.todo

/-- The request line of initiator `i` in a cycle; without a request its word is a free value. -/
def driverLine (draw i : Nat) (d : Driver) : RequestLine :=
  match d.out with
  | some w => { req := true, word := w }
  | none => { req := false, word := Config.anyBits draw (.undrivenRequest i) 67 }

/-- The driver after a cycle: a completion ends its request, and a cycle of its `IDLE` has passed. -/
def driverEnd (completed : Bool) (d : Driver) : Driver :=
  { d with out := if completed then none else d.out, wait := d.wait - 1 }

/-- The driver has completed all its statements. -/
def driverDone (d : Driver) : Bool := d.todo.isEmpty && d.out.isNone && decide (d.wait = 0)

/-- A trace program at its start on a fabric; none where it is no program for the fabric's initiators. -/
def traceStart (s : State) (tr : Trace) : Option TraceRun :=
  if traceWf s.cfg.n tr then
    let drivers := (List.range s.cfg.n).map (driverOf tr)
    some { state := s, drivers := drivers, program := drivers, cycle := 0 }
  else none

/-- The drivers as they are in the current cycle. -/
def traceDrivers (r : TraceRun) : List Driver := r.drivers.map (driverBegin r.cycle)

/-- The fabric with the drivers' request lines on `I[*]` in the current cycle; reset and the targets' answers stay as the
schedule gives them. -/
def traceState (r : TraceRun) : State :=
  { r.state with
    inputs := { r.state.input with ini := (traceDrivers r).mapIdx (driverLine r.state.draw) } :: r.state.inputs.tail }

/-- Initiator `i` sees its transaction complete in the cycle with these signals (00_scope.md R16). -/
def completedIn (sig : Signals) (i : Nat) : Bool :=
  match sig.iniRsp[i]? with
  | some p => completes p.ack p.err
  | none => false

/-- The run after a cycle that led to `t`. In a reset cycle the initiators are reset too (70_reset_and_hazards.md R351) and
the program starts again. -/
def traceNext (r : TraceRun) (t : State) : TraceRun :=
  if r.state.input.rst then { state := t, drivers := r.program, program := r.program, cycle := 0 }
  else
    { state := t
      drivers := (traceDrivers r).mapIdx (fun i d => driverEnd (completedIn t.sig i) d)
      program := r.program
      cycle := r.cycle + 1 }

/-- One cycle of a trace program. -/
def traceCycle (r : TraceRun) : Host.Outcome TraceRun Fault Refusal :=
  match step (traceState r) with
  | .next t => .next (traceNext r t)
  | .fault f => .fault f
  | .refused e => .refused e

/-- `k` cycles of a trace program. -/
def traceRun : Nat → TraceRun → Host.Outcome TraceRun Fault Refusal
  | 0, r => .next r
  | k + 1, r =>
    match traceCycle r with
    | .next r' => traceRun k r'
    | .fault f => .fault f
    | .refused e => .refused e

/-- Every statement of the program has completed. -/
def traceDone (r : TraceRun) : Bool := (traceDrivers r).all driverDone

end Sys2Proof.Machine
end

