-- ==== Sys2Proof/Safety.lean ====
section
/-! DEFINITION. What claims speak of: runs that give no fault, the invariants of 10_state.md R46, quiescence
(45_fabric_step.md R301), an environment that drives a request or gives an answer in a cycle, the recorder on the CSR
sub-bus (43_csr_bridge.md R244), and the pointer over a sequence of arbitrations (42_arbiter.md R199). -/

namespace Sys2Proof.Machine

/-- No initiator has broken its hold duty: only such a run satisfies claims (45_fabric_step.md R298). -/
def Faultless (s : State) : Prop := s.faults = []

/-- The indices and lists of the state fit the configuration: `grant` and `last` are initiators, `held` has an entry for
each (10_state.md R35, R36, R47). -/
structure WellShaped (s : State) : Prop where
  last_lt  : s.last < s.cfg.n
  grant_lt : ∀ g, s.grant = some g → g < s.cfg.n
  held_len : s.held.length = s.cfg.n

/-- The region a packed main-bus request is routed to. -/
def routeOf (s : State) (w : Wreq) : Option (Nat × Region) := route s.cfg.mainMap (byteAddr (BusReq.unpack w).adr)

/-- The invariants of 10_state.md R46, over a run without faults and without a bench. A granted initiator's request is
the one it holds, so "the shared-bus request is routed to the CsrBridge" is said of the held request. -/
structure FabricInv (s : State) : Prop where
  shaped      : WellShaped s
  no_bench    : s.bench = []
  grant_held  : ∀ g, s.grant = some g → (heldBy s.held g).isSome
  bridge_busy : s.br.phase ≠ .idle →
    ∃ g w k r, s.grant = some g ∧ heldBy s.held g = some w ∧ routeOf s w = some (k, r) ∧ r.target = .bridge
  dec_due     : s.decErr = true → ∃ g w, s.grant = some g ∧ heldBy s.held g = some w ∧ routeOf s w = none
  csr_due     : s.csrErr = true → s.br.phase = .busy ∧ route s.cfg.csrMap (beatAddr s.br.adr s.br.k).toNat = none
  all_beats   : s.br.phase = .done → s.br.err = false → s.br.k = 3

/-- The registers of the fabric at rest: no grant, no error due, the CsrBridge in `Idle`, nothing held (R301). -/
def AtRest (s : State) : Prop :=
  s.grant = none ∧ s.decErr = false ∧ s.br.phase = .idle ∧ s.csrErr = false ∧ ∀ i, heldBy s.held i = none

/-- The quiescent state (R301). -/
def Quiescent (s : State) : Prop :=
  AtRest s ∧ ∀ i, i < s.cfg.n → (requestLine s.draw s.input i).req = false

/-- A trace program has ended in the current cycle: every statement has completed, the fabric is quiescent, and no fault is
recorded (R301). -/
def TraceFinished (r : TraceRun) : Prop := traceDone r = true ∧ Quiescent (traceState r) ∧ Faultless r.state

/-- The cycle, counted from the run `r`, in which a trace program ends: the first in which it has ended (R301). -/
def TraceEndsAt (r : TraceRun) (k : Nat) : Prop :=
  (∃ t, traceRun k r = .next t ∧ TraceFinished t) ∧ ∀ j t, j < k → traceRun j r = .next t → ¬TraceFinished t

/-- A trace program and its fabric agree: there is a driver for every initiator, each initiator's held request is the one
its driver holds, and no driver holds one at the program's start (45_fabric_step.md R296). -/
structure TraceHolds (r : TraceRun) : Prop where
  drivers_len : r.drivers.length = r.state.cfg.n
  program_len : r.program.length = r.state.cfg.n
  held_eq     : ∀ i d, r.drivers[i]? = some d → heldBy r.state.held i = d.out
  start_quiet : ∀ d, d ∈ r.program → d.out = none

/-- In this cycle initiator `g` drives the packed request `w` and reset is not asserted. -/
def Drives (g : Nat) (w : Wreq) (inp : CycleInput) : Prop :=
  inp.rst = false ∧ inp.ini[g]? = some { req := true, word := w }

/-- In this cycle the CSR target a beat is routed to answers `a`. -/
def AnswersBeat (cfg : Config) (q : BeatReq) (a : BeatRsp) (inp : CycleInput) : Prop :=
  ∃ u r, route cfg.csrMap q.adr.toNat = some (u, r) ∧ inp.csr[u]? = some a

/-- In this cycle the main-bus target at place `k` gives no completion. -/
def Silent (k : Nat) (inp : CycleInput) : Prop := ∃ d, inp.main[k]? = some { ack := false, err := false, datR := d }

/-- A wide transaction about to be accepted: initiator `g` holds the grant, its request `w` is routed to the CsrBridge,
which is `Idle`; `o` is the word offset the CsrBridge sees. -/
def WideStart (s : State) (g : Nat) (w : Wreq) (o : BridgeAddr) : Prop :=
  configError s.cfg = none ∧ s.bench = [] ∧ s.grant = some g ∧ g < s.cfg.n ∧ s.br.phase = .idle ∧
    ∃ k r, routeOf s w = some (k, r) ∧ r.target = .bridge ∧ o = (rebaseWord r (BusReq.unpack w).adr).setWidth 26

/-- A beat takes these cycles and is answered `a` in the last of them: a mapped beat any number of cycles in which its
target gives no completion and then one in which it answers; an unmapped one its two cycles (44_csr_decoder.md R274), the
answer being the synthesized error. -/
def TakesBeat (cfg : Config) (q : BeatReq) (a : BeatRsp) (inps : List CycleInput) : Prop :=
  (∃ waits last, inps = waits ++ [last] ∧
    (∀ inp ∈ waits, ∃ d, AnswersBeat cfg q { ack := false, err := false, datR := d } inp) ∧ AnswersBeat cfg q a last) ∨
  (route cfg.csrMap q.adr.toNat = none ∧ inps.length = 2 ∧ a = synthesizedBeatError)

/-- The cycles of a schedule serve the beats of a wide transaction, beat `k` in `d_k` of them: each beat is answered as
`answer` does, with a completion, and the schedule ends at the first error (43_csr_bridge.md R234, R239, R242). -/
def Served {σ : Type} (cfg : Config) (answer : σ → BeatReq → BeatRsp × σ) :
    σ → List BeatReq → List Nat → List CycleInput → Prop
  | _, [], ds, inps => ds = [] ∧ inps = []
  | _, _ :: _, [], _ => False
  | m, q :: rest, d :: ds, inps =>
    d ≤ inps.length ∧ TakesBeat cfg q (answer m q).1 (inps.take d) ∧
      (if (answer m q).1.err then ds = [] ∧ inps.drop d = []
       else (answer m q).1.ack = true ∧ Served cfg answer (answer m q).2 rest ds (inps.drop d))

/-- The beats a recorder on the CSR sub-bus sees in `k` cycles, each once, in its first cycle (00_scope.md R16):
`waiting` says that the beat now on the sub-bus began in an earlier cycle. -/
def recordFrom : Nat → Bool → State → List BeatReq
  | 0, _, _ => []
  | k + 1, waiting, s =>
    match step s with
    | .next t =>
      (if t.sig.beat.req && !waiting then [t.sig.beat.q] else []) ++
        recordFrom k (t.sig.beat.req && !completes t.sig.csrRsp.ack t.sig.csrRsp.err && !s.input.rst) t
    | .fault _ => []
    | .refused _ => []

/-- The beats a recorder on the CSR sub-bus sees in `k` cycles, none being outstanding at first (43_csr_bridge.md
R244). -/
def recordBeats (k : Nat) (s : State) : List BeatReq := recordFrom k false s

/-- The round-robin pointer after `k` arbitrations, the `j`-th over the requesters `pending j` (42_arbiter.md R193). -/
def pointerAfter (n last : Nat) (pending : Nat → Nat → Bool) : Nat → Nat
  | 0 => last
  | k + 1 => (select n (pointerAfter n last pending k) (pending k)).getD (pointerAfter n last pending k)

end Sys2Proof.Machine
end

