-- ==== Sys2Proof/Certificates/Slice0/Obligations.lean ====
section
/-! DEFINITION. The statements about this fabric, from the numbered rules of spec/. -/

open Sys2Proof Sys2Proof.Machine

/-! ## Encoding -/

/-- R104, R106, R108, R109: the packed word of every transaction kind, laid out in bytes, decodes to that kind with every
operand, whatever bytes follow it. -/
def Obligations.DecodeInvertsEncodeOnBytes : Prop :=
  ∀ (i : Instr) (rest : List Byte),
    decodeBytes (packetBus (encode i)) (packetBytes (encode i) ++ rest) = .ok (i, rest)

/-- R108, R109, R112: every 67-bit word and every 38-bit word is the packed word of the one kind it decodes to. -/
def Obligations.EveryPackedWordEncodesItsKind : Prop :=
  (∀ w : Wreq, encode (decodeWreq w) = .wreq w) ∧ (∀ w : Creq, encode (decodeCreq w) = .creq w)

/-- R108, R109, R111: the match and mask of the opcode tables decide the kind. -/
def Obligations.OpcodeBitsDecideTheKind : Prop :=
  (∀ w : Wreq,
    (w &&& 0x1000000000#67 = 0#67 ↔ ∃ adr sel datW, decodeWreq w = .wbRead adr sel datW) ∧
    (w &&& 0x1000000000#67 = 0x1000000000#67 ↔ ∃ adr sel datW, decodeWreq w = .wbWrite adr sel datW)) ∧
  (∀ w : Creq,
    (w &&& 0x300#38 = 0x100#38 ↔ ∃ adr datW, decodeCreq w = .csrRead adr datW) ∧
    (w &&& 0x300#38 = 0x300#38 ↔ ∃ adr datW, decodeCreq w = .csrWrite adr datW) ∧
    (w &&& 0x300#38 = 0x200#38 ↔ ∃ adr datW, decodeCreq w = .csrWriteNosel adr datW) ∧
    (w &&& 0x300#38 = 0x000#38 ↔ ∃ adr datW, decodeCreq w = .csrReserved adr datW))

/-- Packed words that 95_test_vectors.md writes out decode to the transactions it names. -/
def Obligations.WordsOfTheSpecDecode : Prop :=
  decodeWreq 0x08000080f00000000 = .wbRead 0x04000040 0xf 0 ∧
  decodeWreq 0x588000035aabbccdd = .wbWrite 0x2c400001 0x5 0xaabbccdd ∧
  decodeCreq 0x0400001100 = .csrRead 0x1000004 0x00 ∧
  decodeCreq 0x04000013dd = .csrWrite 0x1000004 0xdd ∧
  decodeCreq 0x04000016cc = .csrWriteNosel 0x1000005 0xcc ∧
  decodeCreq 0x0400001000 = .csrReserved 0x1000004 0x00

/-- The model's byte form of packed words (log entry 13): a byte string too short, or with a bit above the packed width,
is refused by name, and every other one decodes. -/
def Obligations.MalformedBytesAreRefusedByName : Prop :=
  ∀ (bus : Bus) (bytes : List Byte),
    (bytes.length < packedBytes bus → decodeBytes bus bytes = .error (.truncated bus)) ∧
    (packedBytes bus ≤ bytes.length → 2 ^ packedWidth bus ≤ bytesToNat (bytes.take (packedBytes bus)) →
      decodeBytes bus bytes = .error (.padding bus)) ∧
    (packedBytes bus ≤ bytes.length → bytesToNat (bytes.take (packedBytes bus)) < 2 ^ packedWidth bus →
      ∃ i, decodeBytes bus bytes = .ok (i, bytes.drop (packedBytes bus)))

/-- R115, R116, R67: `RD` and `WR` at a multiple of 4 issue `{byteaddr[31:2], we, sel, data}`, the mask 0b1111 where none
is written, and are no statement elsewhere; a byte statement selects exactly the lane of its byte address, which is where
`RDB` finds its byte, a halfword statement exactly the lanes of its two, and the write forms put their data there; `IDLE`
issues nothing. That a halfword at an odd address is no statement is the model's choice for `a & 3 = 1`, which R116 does
not refuse in words (log entry 24). -/
def Obligations.NarrowStatementsSelectTheirBytes : Prop :=
  ∀ a : Nat, a < 2 ^ 32 →
    (a % 4 = 0 → ∀ (sel : Lanes) (d : Word),
      stmtOp (.rd a sel) = some (.issue ((BitVec.ofNat 32 a).extractLsb' 2 30 ++ 0#1 ++ sel ++ 0#32)) ∧
      stmtOp (.wr a d sel) = some (.issue ((BitVec.ofNat 32 a).extractLsb' 2 30 ++ 1#1 ++ sel ++ d)) ∧
      stmtOp (.rd a) = stmtOp (.rd a 0b1111) ∧ stmtOp (.wr a d) = stmtOp (.wr a d 0b1111)) ∧
    (a % 4 ≠ 0 → ∀ (sel : Lanes) (d : Word), stmtOp (.rd a sel) = none ∧ stmtOp (.wr a d sel) = none) ∧
    (∀ n, stmtOp (.idle n) = some (.idle n)) ∧
    (∃ adr sel, stmtInstr (.rdb a) = some (.wbRead adr sel 0) ∧
      ∀ j, j < 4 → (sel.getLsbD j = true ↔ byteAddr adr + j = a) ∧
        (byteAddr adr + j = a → ∀ d, rdbByte a d = lane d j)) ∧
    (∀ b : Byte, ∃ adr sel d, stmtInstr (.wrb a b) = some (.wbWrite adr sel d) ∧
      ∀ j, j < 4 → (sel.getLsbD j = true ↔ byteAddr adr + j = a) ∧ (byteAddr adr + j = a → lane d j = b)) ∧
    (a % 2 = 0 → ∃ adr sel, stmtInstr (.rdh a) = some (.wbRead adr sel 0) ∧
      ∀ j, j < 4 → (sel.getLsbD j = true ↔ byteAddr adr + j = a ∨ byteAddr adr + j = a + 1)) ∧
    (a % 2 = 0 → ∀ h : BitVec 16, ∃ adr sel d, stmtInstr (.wrh a h) = some (.wbWrite adr sel d) ∧
      ∀ j, j < 4 → (sel.getLsbD j = true ↔ byteAddr adr + j = a ∨ byteAddr adr + j = a + 1) ∧
        (byteAddr adr + j = a → lane d j = h.extractLsb' 0 8) ∧
        (byteAddr adr + j = a + 1 → lane d j = h.extractLsb' 8 8)) ∧
    (a % 2 = 1 → stmtInstr (.rdh a) = none ∧ ∀ h : BitVec 16, stmtInstr (.wrh a h) = none)

/-! ## Address map and construction -/

/-- R140: `route` answers a region of the map whose window contains the address, at its place, and nothing exactly when
no window contains it. -/
def Obligations.RouteIsExactContainment : Prop :=
  ∀ (map : List Region) (a : Nat),
    (∀ k r, route map a = some (k, r) → map[k]? = some r ∧ r.base ≤ a ∧ a < r.base + r.size) ∧
    (route map a = none ↔ ∀ r ∈ map, ¬(r.base ≤ a ∧ a < r.base + r.size))

/-- R131, R133, R140: in an accepted configuration no address lies in two windows of one map, so `route` is any region's
whose window contains the address. -/
def Obligations.AcceptedMapServesNoAddressTwice : Prop :=
  ∀ (cfg : Config) (bus : Bus) (a i : Nat) (r : Region),
    configError cfg = none → (cfg.map bus)[i]? = some r → r.base ≤ a → a < r.base + r.size →
      route (cfg.map bus) a = some (i, r)

/-- R132 to R139: `add` accepts exactly the windows that pass every check, and then appends the region. -/
def Obligations.AddAcceptsExactlyLawfulWindows : Prop :=
  ∀ (started : Bool) (bus : Bus) (regions : List Region) (t : TargetPort) (name : String) (base : Nat),
    (addRegion started bus regions t name base = .ok (regions ++ [newRegion t name base]) ↔
      started = false ∧ 1 ≤ t.size ∧ t.dataWidth = bus.width ∧ t.granularity = bus.granularity ∧
      base + t.size ≤ 2 ^ bus.addrBits ∧ (bus = .main → base % 4 = 0 ∧ t.size % 4 = 0) ∧
      base % 2 ^ clog2 t.size = 0 ∧ (∀ r ∈ regions, r.name ≠ name) ∧
      ∀ r ∈ regions, base + t.size ≤ r.base ∨ r.base + r.size ≤ base) ∧
    (∀ rs, addRegion started bus regions t name base = .ok rs → rs = regions ++ [newRegion t name base])

/-- R12: `clog2(s)` is the least `k` with `2^k >= s`. -/
def Obligations.ClogIsTheLeastExponent : Prop :=
  ∀ s : Nat, s ≤ 2 ^ clog2 s ∧ ∀ k, s ≤ 2 ^ k → clog2 s ≤ k

/-- R137: the fabric is started by the first edge with `rst = 0` and never stops being started; once started, every
registration is refused with `LateRegistrationError`. -/
def Obligations.RegistrationAfterStartIsRefused : Prop :=
  (∀ (s : State) (bus : Bus) (t : TargetPort) (name : String) (base : Nat), s.started = true →
    addTarget s bus t name base = .refused (.construction (.lateRegistration name))) ∧
  (∀ (s : State) (p : InitiatorPort), s.started = true →
    addInitiator s p = .refused (.construction (.lateRegistration p.name))) ∧
  (∀ s t : State, step s = .next t → (s.started = true ∨ s.input.rst = false ↔ t.started = true))

/-- R145: the configuration of this hardware is accepted for every value of its OPEN parameters within R11 and every
non-empty list of initiators of the main bus's shape. -/
def Obligations.HardwareConfigurationIsAccepted : Prop :=
  ∀ (o : OpenSizes) (ini : List InitiatorPort), openSizesOk o = true → ini ≠ [] →
    (∀ p ∈ ini, p.dataWidth = 32 ∧ p.granularity = 8) → configError (hardwareConfig o ini) = none

/-- R142: a fabric with no initiator does not start, and where its maps are lawful the error is `NoInitiator`; empty maps are accepted and leave every address unmapped. -/
def Obligations.NoInitiatorNoStart : Prop :=
  (∀ s : State, s.cfg.initiators = [] → regionsError .main [] s.cfg.mainMap = none →
    regionsError .csr [] s.cfg.csrMap = none → step s = .refused (.construction .noInitiator)) ∧
  (∀ s : State, s.cfg.initiators = [] → ∃ e, step s = .refused (.construction e)) ∧
  (∀ (ini : List InitiatorPort), ini ≠ [] → (∀ p ∈ ini, p.dataWidth = 32 ∧ p.granularity = 8) →
    configError { initiators := ini, mainMap := [], csrMap := [] } = none) ∧
  (∀ a : Nat, route [] a = none)

/-- R144: a configuration with a construction error runs no cycle. -/
def Obligations.RefusedConfigurationRunsNoCycle : Prop :=
  ∀ (s : State) (e : BuildError), configError s.cfg = some e → step s = .refused (.construction e)

/-- R63, R64, R65: the unmapped byte addresses of this hardware's main bus and of its CSR sub-bus. -/
def Obligations.UnmappedRangesOfTheHardware : Prop :=
  ∀ o : OpenSizes, openSizesOk o = true →
    (∀ a, a < 2 ^ 32 → (route (hardwareMainMap o) a = none ↔
      (o.flash ≤ a ∧ a < 0x10000000) ∨ (0x10000800 ≤ a ∧ a < 0xa0000000) ∨
      (0xa0000000 + o.debug ≤ a ∧ a < 0xb0000000) ∨ 0xc0000000 ≤ a)) ∧
    (∀ a, a < 2 ^ 28 → (route (hardwareCsrMap o) a = none ↔
      a < 0x01000000 ∨ (0x01000020 ≤ a ∧ a < 0x02000000) ∨ (0x02000000 + o.uart ≤ a ∧ a < 0x04000000) ∨
      0x04000000 + o.id ≤ a))

/-! ## The Arbiter -/

/-- R191: `select` answers the requester nearest after the pointer in cyclic order; the pointer's own initiator only when
it alone requests; nothing when nobody does; and with the pointer at `N - 1` the lowest-indexed requester. -/
def Obligations.SelectFollowsRoundRobin : Prop :=
  ∀ (n last : Nat) (pending : Nat → Bool),
    (∀ i, select n last pending = some i ↔
      ∃ j, j < n ∧ i = (last + 1 + j) % n ∧ pending i = true ∧
        ∀ j', j' < j → pending ((last + 1 + j') % n) = false) ∧
    (select n last pending = none ↔ ∀ i, i < n → pending i = false) ∧
    (last < n → select n last pending = some last → ∀ i, i < n → i ≠ last → pending i = false) ∧
    (last + 1 = n → ∀ i, select n last pending = some i → ∀ i', i' < i → pending i' = false)

/-- R199, R191, R193: an initiator that requests at every arbitration is granted after at most `N - 1` grants to others,
whatever the pointer and the other requesters. -/
def Obligations.RequesterIsGrantedWithinNArbitrations : Prop :=
  ∀ (n last i : Nat) (pending : Nat → Nat → Bool), i < n → (∀ k, pending k i = true) →
    ∃ k, k < n ∧ select n (pointerAfter n last pending k) (pending k) = some i

/-- R192, R193, R196: arbitration happens only while nobody is granted; the pointer moves only with a grant; a grant ends
at its transaction's completion and at no other edge (reset apart). -/
def Obligations.GrantIsMadeAndReleasedAsStated : Prop :=
  ∀ s t : State, step s = .next t → s.input.rst = false →
    (s.grant = none →
      t.grant = select s.cfg.n s.last (requesting s.draw s.input) ∧
      (t.grant = none → t.last = s.last) ∧ (∀ g, t.grant = some g → t.last = g)) ∧
    (∀ g, s.grant = some g →
      t.last = s.last ∧
      (t.sig.decRsp.ack = true ∨ t.sig.decRsp.err = true → t.grant = none) ∧
      (t.sig.decRsp.ack = false → t.sig.decRsp.err = false → t.grant = some g))

/-- R194: the shared bus carries the granted initiator's request, verbatim and in the same cycle, and no request while
nobody is granted. -/
def Obligations.SharedBusCarriesTheGrantedRequest : Prop :=
  ∀ s t : State, s.bench = [] → step s = .next t →
    (∀ g, s.grant = some g →
      t.sig.shared.req = (requestLine s.draw s.input g).req ∧
      t.sig.shared.q.pack = (requestLine s.draw s.input g).word) ∧
    (s.grant = none → t.sig.shared.req = false)

/-- R195: the Decoder's response goes to the granted initiator alone; every other one sees no completion. -/
def Obligations.OnlyTheGrantedInitiatorIsAnswered : Prop :=
  ∀ s t : State, step s = .next t → ∀ i, i < s.cfg.n → ∃ p, t.sig.iniRsp[i]? = some p ∧
    (s.grant = some i → p = t.sig.decRsp) ∧ (s.grant ≠ some i → p.ack = false ∧ p.err = false)

/-- R35, R36, R47: `grant` and `last` stay initiators, and every initiator keeps its held entry. -/
def Obligations.IndicesStayInitiators : Prop :=
  ∀ s t : State, WellShaped s → step s = .next t → WellShaped t

/-! ## The main Decoder and the main-bus kinds -/

/-- R162, R102: in an accepted configuration the rebased word offset is the exact difference, lies in the region, and fits
the target port's address field of `clog2(s/4)` bits; and no target port, driven or not, carries more than its field. -/
def Obligations.RebasingStaysInTheWindow : Prop :=
  (∀ (cfg : Config) (adr : WordAddr) (k : Nat) (r : Region), configError cfg = none →
    route cfg.mainMap (byteAddr adr) = some (k, r) →
      r.base / 4 ≤ adr.toNat ∧ (rebaseWord r adr).toNat = adr.toNat - r.base / 4 ∧
      (rebaseWord r adr).toNat < r.size / 4 ∧ (rebaseWord r adr).toNat < 2 ^ clog2 (r.size / 4)) ∧
  (∀ (s t : State) (k : Nat) (r : Region) (p : MainPort), step s = .next t → s.cfg.mainMap[k]? = some r →
    t.sig.targets[k]? = some p → p.q.adr.toNat < 2 ^ clog2 (r.size / 4))

/-- R163: a shared-bus request is driven, rebased and otherwise unchanged, on the port of the region it is routed to or
on the CsrBridge's input, and on no other; without a request or a region nothing is driven. -/
def Obligations.DecoderDrivesExactlyTheSelectedTarget : Prop :=
  ∀ s t : State, step s = .next t →
    (∀ k r, t.sig.shared.req = true → route s.cfg.mainMap (byteAddr t.sig.shared.q.adr) = some (k, r) →
      (r.target = .external →
        t.sig.targets[k]? =
          some { req := true, q := { t.sig.shared.q with adr := rebaseWord r t.sig.shared.q.adr } } ∧
        t.sig.bridgeIn.req = false) ∧
      (r.target = .bridge →
        t.sig.bridgeIn =
          { req := true, adr := (rebaseWord r t.sig.shared.q.adr).setWidth 26, we := t.sig.shared.q.we,
            sel := t.sig.shared.q.sel, datW := t.sig.shared.q.datW }) ∧
      ∀ (i : Nat) (p : MainPort), t.sig.targets[i]? = some p → i ≠ k ∨ r.target = .bridge → p.req = false) ∧
    (t.sig.shared.req = false ∨ route s.cfg.mainMap (byteAddr t.sig.shared.q.adr) = none →
      t.sig.bridgeIn.req = false ∧ ∀ (i : Nat) (p : MainPort), t.sig.targets[i]? = some p → p.req = false)

/-- R165: what a main-bus target drives while it is not selected changes no state and no output. -/
def Obligations.UnselectedMainTargetsAreIgnored : Prop :=
  ∀ (s : State) (inp : CycleInput) (rest : List CycleInput) (other : List BusRsp),
    s.bench = [] → s.inputs = inp :: rest →
    (∀ k r, decoderRoute s.cfg (sharedBus s) = some (k, r) → r.target = .external → other[k]? = inp.main[k]?) →
      step { s with inputs := { inp with main := other } :: rest } = step s

/-- R166, R161: a request to an unmapped address reaches no target, is answered by nothing in its first cycle and by the
synthesized error in its second, which releases the grant and clears the due error. -/
def Obligations.UnmappedRequestErrsInItsSecondCycle : Prop :=
  ∀ (i : Instr) (adr : WordAddr) (sel : Lanes) (datW : Word) (s : State) (g : Nat),
    i = .wbRead adr sel datW ∨ i = .wbWrite adr sel datW →
    s.input.rst = false → s.grant = some g → g < s.cfg.n → route s.cfg.mainMap (byteAddr adr) = none →
      ∃ t, exec i s = .next t ∧ t.sig.bridgeIn.req = false ∧
        (∀ (k : Nat) (p : MainPort), t.sig.targets[k]? = some p → p.req = false) ∧
        (s.decErr = false →
          (∃ p, t.sig.iniRsp[g]? = some p ∧ p.ack = false ∧ p.err = false) ∧ t.decErr = true ∧ t.grant = some g) ∧
        (s.decErr = true →
          t.sig.iniRsp[g]? = some { ack := true, err := true, datR := 0 } ∧ t.decErr = false ∧ t.grant = none)

/-- R160, R162, R164, R167, R71: a `WB_READ` of a mapped target that answers in the cycle is issued to that target with
its rebased address and its mask unchanged, and its initiator gets the target's response unchanged, which releases the
grant. -/
def Obligations.ReadOfAMappedTargetCompletes : Prop :=
  ∀ (adr : WordAddr) (sel : Lanes) (datW : Word) (s : State) (g k : Nat) (r : Region) (a : BusRsp),
    s.input.rst = false → s.grant = some g → g < s.cfg.n →
    route s.cfg.mainMap (byteAddr adr) = some (k, r) → r.target = .external →
    s.input.main[k]? = some a → a.ack = true ∨ a.err = true →
      ∃ t, exec (.wbRead adr sel datW) s = .next t ∧
        t.sig.targets[k]? =
          some { req := true, q := { adr := rebaseWord r adr, we := false, sel := sel, datW := datW } } ∧
        (∀ (i : Nat) (p : MainPort), t.sig.targets[i]? = some p → i ≠ k → p.req = false) ∧
        t.sig.iniRsp[g]? = some a ∧ t.grant = none ∧ t.decErr = false

/-- R161, R162, R164, R167, R71: the same of a `WB_WRITE`, its mask and data unchanged. -/
def Obligations.WriteOfAMappedTargetCompletes : Prop :=
  ∀ (adr : WordAddr) (sel : Lanes) (datW : Word) (s : State) (g k : Nat) (r : Region) (a : BusRsp),
    s.input.rst = false → s.grant = some g → g < s.cfg.n →
    route s.cfg.mainMap (byteAddr adr) = some (k, r) → r.target = .external →
    s.input.main[k]? = some a → a.ack = true ∨ a.err = true →
      ∃ t, exec (.wbWrite adr sel datW) s = .next t ∧
        t.sig.targets[k]? =
          some { req := true, q := { adr := rebaseWord r adr, we := true, sel := sel, datW := datW } } ∧
        (∀ (i : Nat) (p : MainPort), t.sig.targets[i]? = some p → i ≠ k → p.req = false) ∧
        t.sig.iniRsp[g]? = some a ∧ t.grant = none ∧ t.decErr = false

/-- R30, R34, R36, R39 to R42, R47, R198, R294: what a cycle of `WB_READ` or `WB_WRITE` outside reset leaves unchanged: the
configuration, the bench, the pointer and the holder while somebody is granted (the grant may only end), the CsrBridge
while it is `Idle` and the request is not routed to it, its latched request while it is `Busy` or `Done`, its buffer on a
write and outside the beat's lane, every recorded fault, and the held request of every initiator that is not granted. No
error is due on the CSR sub-bus after a cycle without a beat. -/
def Obligations.MainBusKindsFrame : Prop :=
  ∀ (i : Instr) (adr : WordAddr) (sel : Lanes) (datW : Word) (s t : State),
    i = .wbRead adr sel datW ∨ i = .wbWrite adr sel datW → exec i s = .next t → s.input.rst = false →
      t.cfg = s.cfg ∧ t.bench = s.bench ∧ t.inputs = s.inputs.tail ∧
      (∀ g, s.grant = some g → t.last = s.last ∧ (t.grant = some g ∨ t.grant = none)) ∧
      (s.br.phase = .idle →
        (∀ k r, route s.cfg.mainMap (byteAddr adr) = some (k, r) → r.target = .external) → t.br = s.br) ∧
      (s.br.phase ≠ .idle →
        t.br.adr = s.br.adr ∧ t.br.we = s.br.we ∧ t.br.dat = s.br.dat ∧ t.br.sel = s.br.sel) ∧
      (s.br.phase ≠ .busy ∨ s.br.we = true → t.br.rbuf = s.br.rbuf) ∧
      (∀ j, j < 4 → j ≠ s.br.k.toNat → lane t.br.rbuf j = lane s.br.rbuf j) ∧
      (s.br.phase ≠ .busy → t.csrErr = false) ∧
      (∀ f, f ∈ s.faults → f ∈ t.faults) ∧
      (∀ j q, j < s.cfg.n → heldBy s.held j = some q → s.grant ≠ some j → heldBy t.held j = some q)

/-! ## The CsrBridge -/

/-- R231: a wide request is accepted while the CsrBridge is `Idle`: it is latched, the buffer is kept, no beat is issued
and no completion is given in the accept cycle; without a request nothing changes. -/
def Obligations.BridgeAcceptsAWideRequest : Prop :=
  (∀ (we : Bool) (i : Instr) (adr : WordAddr) (sel : Lanes) (datW : Word) (s : State) (g k : Nat) (r : Region),
    i = (if we then .wbWrite adr sel datW else .wbRead adr sel datW) →
    s.input.rst = false → s.grant = some g → g < s.cfg.n → s.br.phase = .idle →
    route s.cfg.mainMap (byteAddr adr) = some (k, r) → r.target = .bridge →
      ∃ t, exec i s = .next t ∧
        t.br = { phase := .busy, k := 0, adr := (rebaseWord r adr).setWidth 26, we := we, dat := datW, sel := sel,
                 rbuf := s.br.rbuf, err := false } ∧
        t.sig.beat.req = false ∧
        (∃ p, t.sig.iniRsp[g]? = some p ∧ p.ack = false ∧ p.err = false) ∧ t.grant = some g) ∧
  (∀ s t : State, step s = .next t → s.input.rst = false → s.br.phase = .idle → t.sig.bridgeIn.req = false →
    t.br = s.br)

/-- R232: the CsrBridge issues no beat outside `Busy` and gives no completion outside `Done`. -/
def Obligations.BridgeIsSilentOutsideItsPhases : Prop :=
  ∀ s t : State, s.bench = [] → step s = .next t →
    (s.br.phase ≠ .busy → t.sig.beat.req = false) ∧
    (s.br.phase ≠ .done → t.sig.brRsp.ack = false ∧ t.sig.brRsp.err = false)

/-- R233: the beat of a `Busy` cycle: address `4 * br_adr + k` without wrapping, lane `k` of the data, and `select` the
lane's mask bit on a write and 1 on a read. -/
def Obligations.BeatIsFormedFromTheCursor : Prop :=
  ∀ s t : State, s.bench = [] → step s = .next t → s.br.phase = .busy →
    t.sig.beat.req = true ∧
    t.sig.beat.q.adr.toNat = 4 * s.br.adr.toNat + s.br.k.toNat ∧
    t.sig.beat.q.we = s.br.we ∧
    t.sig.beat.q.select = (if s.br.we then s.br.sel.getLsbD s.br.k.toNat else true) ∧
    (∀ b, b < 8 → t.sig.beat.q.datW.getLsbD b = s.br.dat.getLsbD (8 * s.br.k.toNat + b))

/-- R234: beat completion: an error aborts with the cursor kept, an acknowledged beat fills its lane on a read and moves
on or ends the sequence, and a beat with no completion changes nothing. -/
def Obligations.BeatCompletionMovesTheBridge : Prop :=
  ∀ s t : State, step s = .next t → s.input.rst = false → s.br.phase = .busy →
    (t.sig.csrRsp.err = true → t.br = { s.br with err := true, phase := .done }) ∧
    (t.sig.csrRsp.err = false → t.sig.csrRsp.ack = false → t.br = s.br) ∧
    (t.sig.csrRsp.err = false → t.sig.csrRsp.ack = true →
      t.br.err = s.br.err ∧ t.br.adr = s.br.adr ∧ t.br.we = s.br.we ∧ t.br.dat = s.br.dat ∧ t.br.sel = s.br.sel ∧
      (s.br.k = 3 → t.br.phase = .done ∧ t.br.k = 3) ∧
      (s.br.k ≠ 3 → t.br.phase = .busy ∧ t.br.k.toNat = s.br.k.toNat + 1) ∧
      (s.br.we = true → t.br.rbuf = s.br.rbuf) ∧
      (s.br.we = false → lane t.br.rbuf s.br.k.toNat = t.sig.csrRsp.datR ∧
        ∀ j, j < 4 → j ≠ s.br.k.toNat → lane t.br.rbuf j = lane s.br.rbuf j))

/-- R238: the `Done` cycle of a wide transaction: the aggregate response with the recorded error, the buffer on a read,
its lanes below the failing beat on an aborted read; then `Idle`, with the grant released. -/
def Obligations.AggregateResponseOfAWideTransaction : Prop :=
  ∀ (i : Instr) (adr : WordAddr) (sel : Lanes) (datW : Word) (s : State) (g k : Nat) (r : Region),
    i = .wbRead adr sel datW ∨ i = .wbWrite adr sel datW →
    s.input.rst = false → s.grant = some g → g < s.cfg.n → s.br.phase = .done →
    route s.cfg.mainMap (byteAddr adr) = some (k, r) → r.target = .bridge →
      ∃ t p, exec i s = .next t ∧ t.sig.iniRsp[g]? = some p ∧ p.ack = true ∧ p.err = s.br.err ∧
        (s.br.we = false → s.br.err = false → p.datR = s.br.rbuf) ∧
        (s.br.we = false → s.br.err = true → ∀ j, j < s.br.k.toNat → lane p.datR j = lane s.br.rbuf j) ∧
        t.br = { s.br with phase := .idle } ∧ t.grant = none

/-- R233, R236, R237, R241, R242: a wide read whose four beats are answered without wait states and without error completes
in six cycles, with the byte of beat `k` in lane `k`, and puts exactly its four beats on the CSR sub-bus, each once. The
beats' data bytes are those of the cycle rule R233, where the pseudo-code of R236 says `any` (log entry 12, DEDUCED). -/
def Obligations.WideReadReturnsItsFourBytes : Prop :=
  ∀ (s : State) (g : Nat) (w : Wreq) (o : BridgeAddr) (a0 a1 a2 a3 : BeatRsp) (i0 i1 i2 i3 i4 i5 : CycleInput)
    (rest : List CycleInput),
    WideStart s g w o → (BusReq.unpack w).we = false → s.inputs = i0 :: i1 :: i2 :: i3 :: i4 :: i5 :: rest →
    (∀ inp ∈ [i0, i1, i2, i3, i4, i5], Drives g w inp) →
    (∀ a ∈ [a0, a1, a2, a3], a.ack = true ∧ a.err = false) →
    AnswersBeat s.cfg (beatOf o false 0 0 0) a0 i1 → AnswersBeat s.cfg (beatOf o false 0 0 1) a1 i2 →
    AnswersBeat s.cfg (beatOf o false 0 0 2) a2 i3 → AnswersBeat s.cfg (beatOf o false 0 0 3) a3 i4 →
      ∃ t : State, core.run 6 s = .next t ∧
        t.sig.iniRsp[g]? =
          some { ack := true, err := false, datR := wordOfLanes a0.datR a1.datR a2.datR a3.datR } ∧
        t.grant = none ∧ t.br.phase = .idle ∧
        recordBeats 6 s = wideBeats o false (BusReq.unpack w).sel (BusReq.unpack w).datW

/-- R233, R235, R236, R239, R241, R242, R244, R274: the cycle machine refines the transaction of R235 and R236. For any
answers of the CSR sub-bus, beat `k` taking `d_k` cycles, wait states, target errors and unmapped beats included: the
beats a recorder on the sub-bus sees are exactly those the transaction issues, the response has its outcome, on a read
every completed beat's byte is in its lane, and the transaction takes `1 + (d_0 + ... + d_(m-1)) + 1` cycles. The data
bytes of read beats are those of the cycle rule R233, where the pseudo-code of R236 says `any` (log entry 12, DEDUCED). -/
def Obligations.WideCyclesRefineTheTransaction : Prop :=
  ∀ (σ : Type) (answer : σ → BeatReq → BeatRsp × σ) (m : σ) (s : State) (g : Nat) (w : Wreq) (o : BridgeAddr)
    (first last : CycleInput) (mids rest : List CycleInput) (ds : List Nat),
    WideStart s g w o → s.inputs = first :: (mids ++ last :: rest) →
    Drives g w first → Drives g w last → (∀ inp ∈ mids, Drives g w inp) →
    Served s.cfg answer m (wideBeats o (BusReq.unpack w).we (BusReq.unpack w).sel (BusReq.unpack w).datW) ds mids →
      ∃ (out : WideOutcome) (m' : σ) (t : State) (p : BusRsp),
        runBeats answer m (wideBeats o (BusReq.unpack w).we (BusReq.unpack w).sel (BusReq.unpack w).datW) = (out, m') ∧
        core.run (1 + ds.sum + 1) s = .next t ∧
        recordBeats (1 + ds.sum + 1) s = out.issued ∧ ds.length = out.issued.length ∧ mids.length = ds.sum ∧
        t.sig.iniRsp[g]? = some p ∧ p.ack = true ∧ p.err = out.err ∧
        ((BusReq.unpack w).we = false → ∀ j b, out.data[j]? = some b → lane p.datR j = b) ∧
        t.grant = none ∧ t.br.phase = .idle

/-- R243, R69: with storage behind the CSR sub-bus, a wide write with a mask and a wide read of the same word give the
written byte in every selected lane, and in every other lane the byte the storage held. -/
def Obligations.WideWriteReadsBack : Prop :=
  ∀ (answer : Storage → BeatReq → BeatRsp × Storage) (m : Storage) (o : BridgeAddr) (sel : Lanes) (dat dat' : Word),
    StorageTarget answer → storageWf m = true →
      ((wideWrite answer m o sel dat).1.err = false ∧
       (wideRead answer (wideWrite answer m o sel dat).2 o dat').1.err = false ∧
       ∀ j, j < 4 →
        (wideRead answer (wideWrite answer m o sel dat).2 o dat').1.data[j]? =
          some (if sel.getLsbD j then lane dat j else storageRead m (4 * o.toNat + j)))

/-- R245: the CsrBridge is stateless across transactions: whatever its fields hold in `Idle`, a cycle's outputs and every
other register are the same, and an accepted request overwrites all of them but the buffer. -/
def Obligations.IdleBridgeRemembersNothing : Prop :=
  ∀ (s t t' : State) (b : Bridge), s.bench = [] → s.br.phase = .idle → b.phase = .idle →
    step s = .next t → step { s with br := b } = .next t' →
      t'.sig = t.sig ∧ { t' with br := t.br } = t ∧
      (s.input.rst = true ∨ t.sig.bridgeIn.req = true → { t'.br with rbuf := t.br.rbuf } = t.br)

/-! ## The CsrDecoder and the CSR kinds -/

/-- R271, R102: in an accepted configuration the rebased byte offset is the exact difference, lies in the region, and fits
the target port's address field of `clog2(s)` bits; and no target port, driven or not, carries more than its field. -/
def Obligations.CsrRebasingStaysInTheWindow : Prop :=
  (∀ (cfg : Config) (adr : CsrAddr) (u : Nat) (r : Region), configError cfg = none →
    route cfg.csrMap adr.toNat = some (u, r) →
      r.base ≤ adr.toNat ∧ (rebaseByte r adr).toNat = adr.toNat - r.base ∧ (rebaseByte r adr).toNat < r.size ∧
      (rebaseByte r adr).toNat < 2 ^ clog2 r.size) ∧
  (∀ (s t : State) (u : Nat) (r : Region) (p : CsrPort), step s = .next t → s.cfg.csrMap[u]? = some r →
    t.sig.csrTargets[u]? = some p → p.q.adr.toNat < 2 ^ clog2 r.size)

/-- R272: a beat is driven, rebased and otherwise unchanged, on the port of the region it is routed to and on no other;
without a beat or a region nothing is driven. -/
def Obligations.CsrDecoderDrivesExactlyTheSelectedTarget : Prop :=
  ∀ s t : State, step s = .next t →
    (∀ u r, t.sig.beat.req = true → route s.cfg.csrMap t.sig.beat.q.adr.toNat = some (u, r) →
      t.sig.csrTargets[u]? =
        some { req := true, q := { t.sig.beat.q with adr := rebaseByte r t.sig.beat.q.adr } } ∧
      ∀ (v : Nat) (p : CsrPort), t.sig.csrTargets[v]? = some p → v ≠ u → p.req = false) ∧
    (t.sig.beat.req = false ∨ route s.cfg.csrMap t.sig.beat.q.adr.toNat = none →
      ∀ (v : Nat) (p : CsrPort), t.sig.csrTargets[v]? = some p → p.req = false)

/-- R275: what a CSR target drives while it is not selected changes no state and no output. -/
def Obligations.UnselectedCsrTargetsAreIgnored : Prop :=
  ∀ (s : State) (inp : CycleInput) (rest : List CycleInput) (other : List BeatRsp),
    s.bench = [] → s.inputs = inp :: rest →
    (∀ u r, csrRoute s.cfg (csrBus s) = some (u, r) → other[u]? = inp.csr[u]?) →
      step { s with inputs := { inp with csr := other } :: rest } = step s

/-- R274: a beat to an unmapped CSR address reaches no target, is answered by nothing in its first cycle and by the
synthesized error in its second, which aborts a `Busy` CsrBridge. -/
def Obligations.UnmappedBeatErrsInItsSecondCycle : Prop :=
  ∀ (i : Instr) (adr : CsrAddr) (datW : Byte) (s : State),
    i = .csrRead adr datW ∨ i = .csrWrite adr datW ∨ i = .csrWriteNosel adr datW →
    s.input.rst = false → route s.cfg.csrMap adr.toNat = none →
      ∃ t, exec i s = .next t ∧ (∀ (u : Nat) (p : CsrPort), t.sig.csrTargets[u]? = some p → p.req = false) ∧
        (s.csrErr = false → t.sig.csrRsp.ack = false ∧ t.sig.csrRsp.err = false ∧ t.csrErr = true) ∧
        (s.csrErr = true → t.sig.csrRsp = { ack := true, err := true, datR := 0 } ∧ t.csrErr = false ∧
          (s.br.phase = .busy → t.br.phase = .done ∧ t.br.err = true))

/-- R276, R271, R273: a `CSR_READ` of a mapped target is issued to it at its rebased address with `we = 0` and
`select = 1`, and the target's answer is the beat's response, unchanged, in the same cycle. -/
def Obligations.CsrReadOfAMappedTargetCompletes : Prop :=
  ∀ (adr : CsrAddr) (datW : Byte) (s : State) (u : Nat) (r : Region) (a : BeatRsp),
    s.input.rst = false → route s.cfg.csrMap adr.toNat = some (u, r) → s.input.csr[u]? = some a →
    a.ack = true ∨ a.err = true →
      ∃ t p, exec (.csrRead adr datW) s = .next t ∧ t.sig.csrTargets[u]? = some p ∧
        p.req = true ∧ p.q.adr = rebaseByte r adr ∧ p.q.we = false ∧ p.q.select = true ∧
        (∀ (v : Nat) (p' : CsrPort), t.sig.csrTargets[v]? = some p' → v ≠ u → p'.req = false) ∧
        t.sig.csrRsp = a ∧ t.csrErr = false

/-- R277, R271, R273: a `CSR_WRITE` of a mapped target is issued to it at its rebased address with its byte, `we = 1` and
`select = 1`, and the target's answer is the beat's response, unchanged, in the same cycle. -/
def Obligations.CsrWriteOfAMappedTargetCompletes : Prop :=
  ∀ (adr : CsrAddr) (datW : Byte) (s : State) (u : Nat) (r : Region) (a : BeatRsp),
    s.input.rst = false → route s.cfg.csrMap adr.toNat = some (u, r) → s.input.csr[u]? = some a →
    a.ack = true ∨ a.err = true →
      ∃ t, exec (.csrWrite adr datW) s = .next t ∧
        t.sig.csrTargets[u]? =
          some { req := true, q := { adr := rebaseByte r adr, we := true, select := true, datW := datW } } ∧
        (∀ (v : Nat) (p : CsrPort), t.sig.csrTargets[v]? = some p → v ≠ u → p.req = false) ∧
        t.sig.csrRsp = a ∧ t.csrErr = false

/-- R278, R271, R273: a `CSR_WRITE_NOSEL` of a mapped target is issued to it all the same, with `we = 1` and `select = 0`,
and the target's answer is the beat's response, unchanged, in the same cycle. -/
def Obligations.CsrWriteNoselOfAMappedTargetCompletes : Prop :=
  ∀ (adr : CsrAddr) (datW : Byte) (s : State) (u : Nat) (r : Region) (a : BeatRsp),
    s.input.rst = false → route s.cfg.csrMap adr.toNat = some (u, r) → s.input.csr[u]? = some a →
    a.ack = true ∨ a.err = true →
      ∃ t, exec (.csrWriteNosel adr datW) s = .next t ∧
        t.sig.csrTargets[u]? =
          some { req := true, q := { adr := rebaseByte r adr, we := true, select := false, datW := datW } } ∧
        (∀ (v : Nat) (p : CsrPort), t.sig.csrTargets[v]? = some p → v ≠ u → p.req = false) ∧
        t.sig.csrRsp = a ∧ t.csrErr = false

/-- R111: the reserved CSR kind is refused by name, and the fabric never puts it on the sub-bus. -/
def Obligations.ReservedBeatIsRefusedAndNeverIssued : Prop :=
  (∀ (adr : CsrAddr) (datW : Byte) (s : State), exec (.csrReserved adr datW) s = .refused .csrReadWithSelectZero) ∧
  (∀ (s : State) (adr : CsrAddr) (datW : Byte), s.bench = [] → fetch s ≠ some (.csrReserved adr datW))

/-- R30, R34, R36, R39 to R42, R47, R198: what a cycle of a CSR beat outside reset leaves unchanged: the configuration, the
bench, the pointer and the holder while somebody is granted (the grant may only end), the CsrBridge's latched request
while it is `Busy` or `Done`, its buffer on a write and outside the beat's lane, every recorded fault, and the held
request of every initiator that is not granted. -/
def Obligations.CsrKindsFrame : Prop :=
  ∀ (i : Instr) (adr : CsrAddr) (datW : Byte) (s t : State),
    i = .csrRead adr datW ∨ i = .csrWrite adr datW ∨ i = .csrWriteNosel adr datW →
    exec i s = .next t → s.input.rst = false →
      t.cfg = s.cfg ∧ t.bench = s.bench ∧ t.inputs = s.inputs.tail ∧
      (∀ g, s.grant = some g → t.last = s.last ∧ (t.grant = some g ∨ t.grant = none)) ∧
      (s.br.phase ≠ .idle →
        t.br.adr = s.br.adr ∧ t.br.we = s.br.we ∧ t.br.dat = s.br.dat ∧ t.br.sel = s.br.sel) ∧
      (s.br.phase ≠ .busy ∨ s.br.we = true → t.br.rbuf = s.br.rbuf) ∧
      (∀ j, j < 4 → j ≠ s.br.k.toNat → lane t.br.rbuf j = lane s.br.rbuf j) ∧
      (∀ f, f ∈ s.faults → f ∈ t.faults) ∧
      (∀ j q, j < s.cfg.n → heldBy s.held j = some q → s.grant ≠ some j → heldBy t.held j = some q)

/-! ## The step -/

/-- R293, R294, R3: a step runs the transaction the cycle fetches: outside `Busy` the granted initiator's packed request,
in `Busy` the beat the CsrBridge forms, and a cycle with neither is the fabric's idle cycle. -/
def Obligations.StepRunsTheFetchedTransaction : Prop :=
  ∀ s : State, configError s.cfg = none → s.bench = [] →
    (∀ g, s.br.phase ≠ .busy → s.grant = some g → (requestLine s.draw s.input g).req = true →
      step s = exec (decodeWreq (requestLine s.draw s.input g).word) s) ∧
    (s.br.phase = .busy → step s = exec (decodeCreq (csrBus s).q.pack) s) ∧
    (s.br.phase ≠ .busy → (sharedBus s).req = false → step s = .next (idleCycle s))

/-- R293, R294: while a beat of a wide transaction is on the sub-bus and the wide request on the shared bus, the two
requests have the same meaning: they are one cycle of the fabric. -/
def Obligations.BothBusesDescribeOneCycle : Prop :=
  ∀ (s : State) (g : Nat), s.grant = some g → (requestLine s.draw s.input g).req = true → s.br.phase = .busy →
    exec (decodeWreq (requestLine s.draw s.input g).word) s = exec (decodeCreq (csrBus s).q.pack) s

/-- The model's place for a packed request (log entries 13 and 14): a table word that decodes, placed where the step
fetches, is run by the next step as exactly the instruction it decodes to. -/
def Obligations.PlacedWordRunsNext : Prop :=
  ∀ (s : State) (nbits w : Nat) (i : Instr), configError s.cfg = none → decodeTableWord nbits w = some i →
    step (s.withFetchWord nbits w) = exec i (takeBench (s.withFetchWord nbits w))

/-! ## Reset, invariants and the whole machine -/

/-- R352, R49, R36: the fields of the state right after reset that the spec gives a value, and the first arbitration
after it, which grants the lowest-indexed requester. -/
def Obligations.ResetStateHasTheStatedValues : Prop :=
  ∀ cfg : Config, cfg.n ≠ 0 →
    ((State.resetOf cfg).grant = none ∧ (State.resetOf cfg).last + 1 = cfg.n ∧ (State.resetOf cfg).decErr = false ∧
      (State.resetOf cfg).csrErr = false ∧ (State.resetOf cfg).br.phase = .idle ∧ (State.resetOf cfg).br.k = 0 ∧
      (State.resetOf cfg).br.err = false ∧ (State.resetOf cfg).faults = [] ∧
      ∀ i, heldBy (State.resetOf cfg).held i = none) ∧
    ∀ (pending : Nat → Bool) (i : Nat), i < cfg.n → pending i = true → (∀ j, j < i → pending j = false) →
      select cfg.n (State.resetOf cfg).last pending = some i

/-- R350, R294, R351: an edge with `rst = 1` gives every field its reset value whatever the other inputs are, abandons
every transaction, and keeps the recorded faults. -/
def Obligations.ResetEdgeOverridesEverything : Prop :=
  ∀ s t : State, step s = .next t → s.input.rst = true →
    t.grant = none ∧ t.last = s.cfg.n - 1 ∧ t.decErr = false ∧ t.csrErr = false ∧ t.br.phase = .idle ∧ t.br.k = 0 ∧
    t.br.err = false ∧ (∀ i, heldBy t.held i = none) ∧ t.faults = s.faults ∧ t.cfg = s.cfg

/-- R46: the invariants of the fabric, over steps that record no fault (R298). -/
def Obligations.FabricInvariantIsKept : Prop :=
  ∀ s t : State, FabricInv s → step s = .next t → Faultless t → FabricInv t

/-- R46: the invariants hold right after reset, of this hardware and of every accepted configuration. -/
def Obligations.FabricInvariantHoldsAtReset : Prop :=
  FabricInv State.reset ∧ ∀ cfg : Config, configError cfg = none → FabricInv (State.resetOf cfg)

/-- R46 (4), R325 (3): in a state of a faultless run no cycle both selects a target of a map and owes a synthesized error
on that bus. -/
def Obligations.NoTargetIsSelectedWhileAnErrorIsDue : Prop :=
  ∀ s t : State, FabricInv s → step s = .next t → Faultless t → s.input.rst = false →
    (s.decErr = true → decoderRoute s.cfg (sharedBus s) = none ∧ t.sig.decRsp = synthesizedError) ∧
    (s.csrErr = true → csrRoute s.cfg (csrBus s) = none ∧ t.sig.csrRsp = synthesizedBeatError)

/-- R296: the held request of every initiator and the faults of a cycle. -/
def Obligations.HoldDutyIsChecked : Prop :=
  ∀ s t : State, step s = .next t → s.input.rst = false → ∀ i, i < s.cfg.n → ∃ p, t.sig.iniRsp[i]? = some p ∧
    (Fault.initiatorProtocol i s.cycle ∈ t.faults ↔
      Fault.initiatorProtocol i s.cycle ∈ s.faults ∨
      ∃ q, heldBy s.held i = some q ∧
        ((requestLine s.draw s.input i).req = false ∨ (requestLine s.draw s.input i).word ≠ q)) ∧
    (p.ack = true ∨ p.err = true → heldBy t.held i = none) ∧
    (p.ack = false → p.err = false →
      (∀ q, heldBy s.held i = some q → heldBy t.held i = some q) ∧
      (heldBy s.held i = none → (requestLine s.draw s.input i).req = true →
        heldBy t.held i = some (requestLine s.draw s.input i).word) ∧
      (heldBy s.held i = none → (requestLine s.draw s.input i).req = false → heldBy t.held i = none))

/-- R298, R47, R294: a recorded fault is never removed, not even by reset, and only the faults of the current cycle are
added. -/
def Obligations.FaultsOnlyGrow : Prop :=
  ∀ s t : State, step s = .next t →
    (∀ f, f ∈ s.faults → f ∈ t.faults) ∧
    (∀ f, f ∈ t.faults → f ∈ s.faults ∨ ∃ i, i < s.cfg.n ∧ f = .initiatorProtocol i s.cycle)

/-- R34, R137: no step changes the configuration. -/
def Obligations.ConfigurationNeverChanges : Prop :=
  ∀ s t : State, step s = .next t → t.cfg = s.cfg

/-- R300, R327: while the selected main-bus target gives no completion, the grant is kept and no other initiator is
granted, for however many cycles. -/
def Obligations.SilentTargetHoldsTheBus : Prop :=
  ∀ (pre rest : List CycleInput) (s : State) (g k : Nat) (w : Wreq) (r : Region),
    configError s.cfg = none → s.bench = [] → s.grant = some g → routeOf s w = some (k, r) → r.target = .external →
    s.inputs = pre ++ rest → (∀ inp ∈ pre, Drives g w inp ∧ Silent k inp) →
      ∃ t : State, core.run pre.length s = .next t ∧ t.grant = some g ∧ t.last = s.last ∧ t.inputs = rest

/-- R335, R301: a cycle of a quiescent fabric, one at rest in which nobody requests, leaves it at rest with all its values;
and a trace program that has ended stays ended. -/
def Obligations.QuiescentFabricKeepsItsValues : Prop :=
  (∀ s : State, configError s.cfg = none → s.bench = [] → Quiescent s → s.input.rst = false →
    ∃ t, step s = .next t ∧ AtRest t ∧ t.last = s.last ∧ t.br = s.br ∧ t.faults = s.faults) ∧
  (∀ r : TraceRun, configError r.state.cfg = none → r.state.bench = [] → TraceFinished r → r.state.input.rst = false →
    ∃ u, traceCycle r = .next u ∧ TraceFinished u)

/-- R328, R168 (3): a completed transaction, failed or not, leaves no error due, the CsrBridge `Idle` and the bus free. -/
def Obligations.CompletionLeavesNoTrace : Prop :=
  ∀ (s t : State) (g : Nat), FabricInv s → step s = .next t → Faultless t → s.input.rst = false → s.grant = some g →
    t.sig.decRsp.ack = true ∨ t.sig.decRsp.err = true →
      t.grant = none ∧ t.decErr = false ∧ t.csrErr = false ∧ t.br.phase = .idle
end

