-- ==== Sys2Proof/Laws/Packing.lean ====
section
/-! SUPPORT. The bits of the packed formats, and that packing and unpacking undo each other. -/

namespace Sys2Proof

theorem ofBool_getLsbD (b : Bool) (i : Nat) : (BitVec.ofBool b).getLsbD i = (decide (i = 0) && b) := by
  cases b <;> simp [BitVec.ofBool]

theorem busReq_pack_bit (q : BusReq) (i : Nat) :
    q.pack.getLsbD i =
      if i < 32 then q.datW.getLsbD i
      else if i < 36 then q.sel.getLsbD (i - 32)
      else if i < 37 then q.we
      else q.adr.getLsbD (i - 37) := by
  change BitVec.getLsbD (w := 30 + 1 + 4 + 32) (q.adr ++ BitVec.ofBool q.we ++ q.sel ++ q.datW) i = _
  simp only [BitVec.getLsbD_append, ofBool_getLsbD, Nat.sub_sub]
  split_ifs <;> first | omega | rfl | simp_all

theorem beatReq_pack_bit (q : BeatReq) (i : Nat) :
    q.pack.getLsbD i =
      if i < 8 then q.datW.getLsbD i
      else if i < 9 then q.select
      else if i < 10 then q.we
      else q.adr.getLsbD (i - 10) := by
  change BitVec.getLsbD (w := 28 + 1 + 1 + 8) (q.adr ++ BitVec.ofBool q.we ++ BitVec.ofBool q.select ++ q.datW) i = _
  simp only [BitVec.getLsbD_append, ofBool_getLsbD, Nat.sub_sub]
  split_ifs <;> first | omega | rfl | simp_all

@[simp] theorem busReq_unpack_pack (q : BusReq) : BusReq.unpack q.pack = q := by
  rcases q with ⟨adr, we, sel, datW⟩
  simp only [BusReq.unpack, BusReq.mk.injEq]
  refine ⟨?_, ?_, ?_, ?_⟩
  · apply BitVec.eq_of_getLsbD_eq
    intro i hi
    simp only [BitVec.getLsbD_extractLsb', busReq_pack_bit]
    split_ifs <;> simp_all <;> omega
  · simp only [busReq_pack_bit]
    rfl
  · apply BitVec.eq_of_getLsbD_eq
    intro i hi
    simp only [BitVec.getLsbD_extractLsb', busReq_pack_bit]
    split_ifs <;> simp_all <;> omega
  · apply BitVec.eq_of_getLsbD_eq
    intro i hi
    simp [busReq_pack_bit, hi]

@[simp] theorem busReq_pack_unpack (w : Wreq) : (BusReq.unpack w).pack = w := by
  apply BitVec.eq_of_getLsbD_eq
  intro i hi
  simp only [busReq_pack_bit, BusReq.unpack, BitVec.getLsbD_extractLsb']
  split_ifs with h1 h2 h3
  · simp [h1]
  · have h : i - 32 < 4 := by omega
    have e : 32 + (i - 32) = i := by omega
    simp only [h, decide_true, Bool.true_and, e]
  · have e : i = 36 := by omega
    rw [e]
  · have h : i - 37 < 30 := by omega
    have e : 37 + (i - 37) = i := by omega
    simp only [h, decide_true, Bool.true_and, e]

@[simp] theorem beatReq_unpack_pack (q : BeatReq) : BeatReq.unpack q.pack = q := by
  rcases q with ⟨adr, we, select, datW⟩
  simp only [BeatReq.unpack, BeatReq.mk.injEq]
  refine ⟨?_, ?_, ?_, ?_⟩
  · apply BitVec.eq_of_getLsbD_eq
    intro i hi
    simp only [BitVec.getLsbD_extractLsb', beatReq_pack_bit]
    split_ifs <;> simp_all <;> omega
  · simp only [beatReq_pack_bit]
    rfl
  · simp only [beatReq_pack_bit]
    rfl
  · apply BitVec.eq_of_getLsbD_eq
    intro i hi
    simp [beatReq_pack_bit, hi]

@[simp] theorem beatReq_pack_unpack (w : Creq) : (BeatReq.unpack w).pack = w := by
  apply BitVec.eq_of_getLsbD_eq
  intro i hi
  simp only [beatReq_pack_bit, BeatReq.unpack, BitVec.getLsbD_extractLsb']
  split_ifs with h1 h2 h3
  · simp [h1]
  · have e : i = 8 := by omega
    rw [e]
  · have e : i = 9 := by omega
    rw [e]
  · have h : i - 10 < 28 := by omega
    have e : 10 + (i - 10) = i := by omega
    simp only [h, decide_true, Bool.true_and, e]

@[simp] theorem natToBytes_length (n v : Nat) : (natToBytes n v).length = n := by
  induction n generalizing v with
  | zero => rfl
  | succ n ih => simp [natToBytes, ih]

/-- The bytes of a value that fits them give the value back. -/
theorem bytesToNat_natToBytes (n v : Nat) (h : v < 256 ^ n) : bytesToNat (natToBytes n v) = v := by
  induction n generalizing v with
  | zero => simp [natToBytes, bytesToNat] at *; omega
  | succ n ih =>
    have hd : v / 256 < 256 ^ n := by
      rw [Nat.div_lt_iff_lt_mul (by decide)]
      rw [pow_succ] at h
      exact h
    simp only [natToBytes, bytesToNat, ih _ hd, BitVec.toNat_ofNat]
    omega

end Sys2Proof
end

