-- ==== Sys2Proof/Laws/State.lean ====
section
/-! SUPPORT. What each update of the state leaves in each field: one lemma per field per update. -/

namespace Sys2Proof.Machine

section
variable (s : State)

@[simp] theorem takeBench_cfg : (takeBench s).cfg = s.cfg := rfl
@[simp] theorem takeBench_started : (takeBench s).started = s.started := rfl
@[simp] theorem takeBench_grant : (takeBench s).grant = s.grant := rfl
@[simp] theorem takeBench_last : (takeBench s).last = s.last := rfl
@[simp] theorem takeBench_decErr : (takeBench s).decErr = s.decErr := rfl
@[simp] theorem takeBench_br : (takeBench s).br = s.br := rfl
@[simp] theorem takeBench_csrErr : (takeBench s).csrErr = s.csrErr := rfl
@[simp] theorem takeBench_held : (takeBench s).held = s.held := rfl
@[simp] theorem takeBench_faults : (takeBench s).faults = s.faults := rfl
@[simp] theorem takeBench_cycle : (takeBench s).cycle = s.cycle := rfl
@[simp] theorem takeBench_draw : (takeBench s).draw = s.draw := rfl
@[simp] theorem takeBench_inputs : (takeBench s).inputs = s.inputs := rfl
@[simp] theorem takeBench_bench : (takeBench s).bench = s.bench.tail := rfl
@[simp] theorem takeBench_sig : (takeBench s).sig = s.sig := rfl

end

section
variable (s : State) (sig : Signals)

@[simp] theorem resetEdge_cfg : (resetEdge s sig).cfg = s.cfg := rfl
@[simp] theorem resetEdge_started : (resetEdge s sig).started = s.started := rfl
@[simp] theorem resetEdge_grant : (resetEdge s sig).grant = none := rfl
@[simp] theorem resetEdge_last : (resetEdge s sig).last = s.cfg.n - 1 := rfl
@[simp] theorem resetEdge_decErr : (resetEdge s sig).decErr = false := rfl
@[simp] theorem resetEdge_br : (resetEdge s sig).br = bridgeReset s.draw := rfl
@[simp] theorem resetEdge_csrErr : (resetEdge s sig).csrErr = false := rfl
@[simp] theorem resetEdge_held : (resetEdge s sig).held = List.replicate s.cfg.n none := rfl
@[simp] theorem resetEdge_faults : (resetEdge s sig).faults = s.faults := rfl
@[simp] theorem resetEdge_cycle : (resetEdge s sig).cycle = s.cycle + 1 := rfl
@[simp] theorem resetEdge_draw : (resetEdge s sig).draw = s.draw + 1 := rfl
@[simp] theorem resetEdge_inputs : (resetEdge s sig).inputs = s.inputs.tail := rfl
@[simp] theorem resetEdge_bench : (resetEdge s sig).bench = s.bench := rfl
@[simp] theorem resetEdge_sig : (resetEdge s sig).sig = sig := rfl

end

section
variable (s : State) (sig : Signals)

@[simp] theorem runEdge_cfg : (runEdge s sig).cfg = s.cfg := rfl
@[simp] theorem runEdge_started : (runEdge s sig).started = true := rfl
@[simp] theorem runEdge_grant : (runEdge s sig).grant = 
    grantNext s.cfg.n s.last s.grant (requesting s.draw s.input) sig.decRsp := rfl
@[simp] theorem runEdge_last : (runEdge s sig).last = 
    lastNext s.cfg.n s.last s.grant (requesting s.draw s.input) := rfl
@[simp] theorem runEdge_decErr : (runEdge s sig).decErr = 
    dueError sig.shared.req (decoderRoute s.cfg sig.shared) s.decErr := rfl
@[simp] theorem runEdge_br : (runEdge s sig).br = bridgeNext s.br sig.bridgeIn sig.csrRsp := rfl
@[simp] theorem runEdge_csrErr : (runEdge s sig).csrErr = dueError sig.beat.req (csrRoute s.cfg sig.beat) s.csrErr := rfl
@[simp] theorem runEdge_held : (runEdge s sig).held = (List.range s.cfg.n).map
    (fun i => heldNext (heldBy s.held i) (requestLine s.draw s.input i) (responseTo s sig i)) := rfl
@[simp] theorem runEdge_faults : (runEdge s sig).faults = 
    addFaults s.faults (cycleFaults s.draw s.cycle s.cfg.n s.held s.input) := rfl
@[simp] theorem runEdge_cycle : (runEdge s sig).cycle = s.cycle + 1 := rfl
@[simp] theorem runEdge_draw : (runEdge s sig).draw = s.draw + 1 := rfl
@[simp] theorem runEdge_inputs : (runEdge s sig).inputs = s.inputs.tail := rfl
@[simp] theorem runEdge_bench : (runEdge s sig).bench = s.bench := rfl
@[simp] theorem runEdge_sig : (runEdge s sig).sig = sig := rfl

end

section
variable (s : State) (p : InitiatorPort)

@[simp] theorem withInitiator_cfg : (withInitiator s p).cfg = 
    { s.cfg with initiators := s.cfg.initiators ++ [p] } := rfl
@[simp] theorem withInitiator_started : (withInitiator s p).started = s.started := rfl
@[simp] theorem withInitiator_grant : (withInitiator s p).grant = s.grant := rfl
@[simp] theorem withInitiator_last : (withInitiator s p).last = s.cfg.n := rfl
@[simp] theorem withInitiator_decErr : (withInitiator s p).decErr = s.decErr := rfl
@[simp] theorem withInitiator_br : (withInitiator s p).br = s.br := rfl
@[simp] theorem withInitiator_csrErr : (withInitiator s p).csrErr = s.csrErr := rfl
@[simp] theorem withInitiator_held : (withInitiator s p).held = List.replicate (s.cfg.n + 1) none := rfl
@[simp] theorem withInitiator_faults : (withInitiator s p).faults = s.faults := rfl
@[simp] theorem withInitiator_cycle : (withInitiator s p).cycle = s.cycle := rfl
@[simp] theorem withInitiator_draw : (withInitiator s p).draw = s.draw := rfl
@[simp] theorem withInitiator_inputs : (withInitiator s p).inputs = s.inputs := rfl
@[simp] theorem withInitiator_bench : (withInitiator s p).bench = s.bench := rfl
@[simp] theorem withInitiator_sig : (withInitiator s p).sig = s.sig := rfl

end

section
variable (s : State) (w : Wreq)

@[simp] theorem placeWreq_cfg : (placePacket s (.wreq w)).cfg = s.cfg := rfl
@[simp] theorem placeWreq_started : (placePacket s (.wreq w)).started = s.started := rfl
@[simp] theorem placeWreq_grant : (placePacket s (.wreq w)).grant = some 0 := rfl
@[simp] theorem placeWreq_last : (placePacket s (.wreq w)).last = s.last := rfl
@[simp] theorem placeWreq_decErr : (placePacket s (.wreq w)).decErr = s.decErr := rfl
@[simp] theorem placeWreq_br : (placePacket s (.wreq w)).br = { s.br with phase := .idle } := rfl
@[simp] theorem placeWreq_csrErr : (placePacket s (.wreq w)).csrErr = s.csrErr := rfl
@[simp] theorem placeWreq_held : (placePacket s (.wreq w)).held = s.held := rfl
@[simp] theorem placeWreq_faults : (placePacket s (.wreq w)).faults = s.faults := rfl
@[simp] theorem placeWreq_cycle : (placePacket s (.wreq w)).cycle = s.cycle := rfl
@[simp] theorem placeWreq_draw : (placePacket s (.wreq w)).draw = s.draw := rfl
@[simp] theorem placeWreq_inputs : (placePacket s (.wreq w)).inputs = requestOnFirst w :: s.inputs := rfl
@[simp] theorem placeWreq_bench : (placePacket s (.wreq w)).bench = [] := rfl
@[simp] theorem placeWreq_sig : (placePacket s (.wreq w)).sig = s.sig := rfl

end

section
variable (s : State) (w : Creq)

@[simp] theorem placeCreq_cfg : (placePacket s (.creq w)).cfg = s.cfg := rfl
@[simp] theorem placeCreq_started : (placePacket s (.creq w)).started = s.started := rfl
@[simp] theorem placeCreq_grant : (placePacket s (.creq w)).grant = s.grant := rfl
@[simp] theorem placeCreq_last : (placePacket s (.creq w)).last = s.last := rfl
@[simp] theorem placeCreq_decErr : (placePacket s (.creq w)).decErr = s.decErr := rfl
@[simp] theorem placeCreq_br : (placePacket s (.creq w)).br = s.br := rfl
@[simp] theorem placeCreq_csrErr : (placePacket s (.creq w)).csrErr = s.csrErr := rfl
@[simp] theorem placeCreq_held : (placePacket s (.creq w)).held = s.held := rfl
@[simp] theorem placeCreq_faults : (placePacket s (.creq w)).faults = s.faults := rfl
@[simp] theorem placeCreq_cycle : (placePacket s (.creq w)).cycle = s.cycle := rfl
@[simp] theorem placeCreq_draw : (placePacket s (.creq w)).draw = s.draw := rfl
@[simp] theorem placeCreq_inputs : (placePacket s (.creq w)).inputs = quietInput :: s.inputs := rfl
@[simp] theorem placeCreq_bench : (placePacket s (.creq w)).bench = w :: s.bench := rfl
@[simp] theorem placeCreq_sig : (placePacket s (.creq w)).sig = s.sig := rfl

end

section
variable (s : State) (bus : Bus) (regions : List Region)

@[simp] theorem withMap_started : (withMap s bus regions).started = s.started := by cases bus <;> rfl
@[simp] theorem withMap_grant : (withMap s bus regions).grant = s.grant := by cases bus <;> rfl
@[simp] theorem withMap_last : (withMap s bus regions).last = s.last := by cases bus <;> rfl
@[simp] theorem withMap_decErr : (withMap s bus regions).decErr = s.decErr := by cases bus <;> rfl
@[simp] theorem withMap_br : (withMap s bus regions).br = s.br := by cases bus <;> rfl
@[simp] theorem withMap_csrErr : (withMap s bus regions).csrErr = s.csrErr := by cases bus <;> rfl
@[simp] theorem withMap_held : (withMap s bus regions).held = s.held := by cases bus <;> rfl
@[simp] theorem withMap_faults : (withMap s bus regions).faults = s.faults := by cases bus <;> rfl
@[simp] theorem withMap_cycle : (withMap s bus regions).cycle = s.cycle := by cases bus <;> rfl
@[simp] theorem withMap_draw : (withMap s bus regions).draw = s.draw := by cases bus <;> rfl
@[simp] theorem withMap_inputs : (withMap s bus regions).inputs = s.inputs := by cases bus <;> rfl
@[simp] theorem withMap_bench : (withMap s bus regions).bench = s.bench := by cases bus <;> rfl
@[simp] theorem withMap_sig : (withMap s bus regions).sig = s.sig := by cases bus <;> rfl
@[simp] theorem withMap_map : (withMap s bus regions).cfg.map bus = regions := by cases bus <;> rfl

@[simp] theorem withMap_initiators : (withMap s bus regions).cfg.initiators = s.cfg.initiators := by cases bus <;> rfl

end

section
variable (cfg : Config)

@[simp] theorem resetOf_cfg : (State.resetOf cfg).cfg = cfg := rfl
@[simp] theorem resetOf_started : (State.resetOf cfg).started = false := rfl
@[simp] theorem resetOf_grant : (State.resetOf cfg).grant = none := rfl
@[simp] theorem resetOf_last : (State.resetOf cfg).last = cfg.n - 1 := rfl
@[simp] theorem resetOf_decErr : (State.resetOf cfg).decErr = false := rfl
@[simp] theorem resetOf_br : (State.resetOf cfg).br = resetBridge := rfl
@[simp] theorem resetOf_csrErr : (State.resetOf cfg).csrErr = false := rfl
@[simp] theorem resetOf_held : (State.resetOf cfg).held = List.replicate cfg.n none := rfl
@[simp] theorem resetOf_faults : (State.resetOf cfg).faults = [] := rfl
@[simp] theorem resetOf_cycle : (State.resetOf cfg).cycle = 0 := rfl
@[simp] theorem resetOf_draw : (State.resetOf cfg).draw = 0 := rfl
@[simp] theorem resetOf_inputs : (State.resetOf cfg).inputs = [] := rfl
@[simp] theorem resetOf_bench : (State.resetOf cfg).bench = [] := rfl
@[simp] theorem resetOf_sig : (State.resetOf cfg).sig = undrivenSignals := rfl

end

/-- The bench changes nothing but itself: the environment's signals are the same. -/
@[simp] theorem takeBench_input (s : State) : (takeBench s).input = s.input := rfl

/-- Without a bench there is nothing to take off. -/
theorem takeBench_nil {s : State} (h : s.bench = []) : takeBench s = s := by
  cases s
  cases h
  rfl

/-- The current input is the head of the schedule. -/
theorem input_cons {s : State} {inp : CycleInput} {rest : List CycleInput} (h : s.inputs = inp :: rest) :
    s.input = inp := by
  simp [State.input, h]

end Sys2Proof.Machine
end

