-- ==== Sys2Proof/Laws/Components.lean ====
section
/-! SUPPORT. What each operation of the components answers, case by case: routing, arbitration, the decoders, the
CsrBridge, and the hold duty. -/

namespace Sys2Proof.Machine

/-! Routing -/

theorem routeFrom_some {map : List Region} {k a i : Nat} {r : Region} (h : routeFrom k map a = some (i, r)) :
    k ≤ i ∧ map[i - k]? = some r ∧ contains r a = true := by
  induction map generalizing k with
  | nil => simp [routeFrom] at h
  | cons x rest ih =>
    unfold routeFrom at h
    split at h
    · cases h
      simp_all
    · obtain ⟨h1, h2, h3⟩ := ih h
      have e : i - k = (i - (k + 1)) + 1 := by omega
      exact ⟨by omega, by rw [e]; simpa using h2, h3⟩

theorem contains_iff (r : Region) (a : Nat) : contains r a = true ↔ r.base ≤ a ∧ a < r.base + r.size := by
  simp [contains]

theorem configError_none_iff (cfg : Config) :
    configError cfg = none ↔
      cfg.initiators.findSome? (initiatorCheck false) = none ∧ regionsError .main [] cfg.mainMap = none ∧
        regionsError .csr [] cfg.csrMap = none ∧ cfg.initiators ≠ [] := by
  unfold configError
  constructor
  · intro h
    split at h
    · cases h
    · split at h
      · cases h
      · split at h
        · cases h
        · split at h
          · cases h
          · exact ⟨by assumption, by assumption, by assumption, by assumption⟩
  · rintro ⟨h1, h2, h3, h4⟩
    simp [h1, h2, h3, h4]

/-- An accepted configuration has an initiator (40_address_map.md R142). -/
theorem n_pos_of_accepted {cfg : Config} (h : configError cfg = none) : 0 < cfg.n := by
  have h4 := ((configError_none_iff cfg).1 h).2.2.2
  exact List.length_pos_iff.2 h4

/-- Adding the regions of a list in order succeeds exactly when the first one is accepted and then the others are. -/
theorem regionsError_cons (bus : Bus) (done : List Region) (r : Region) (todo : List Region) :
    regionsError bus done (r :: todo) = none ↔
      addCheck false bus done (regionPort bus r) r.name r.base = none ∧ regionsError bus (done ++ [r]) todo = none := by
  constructor
  · intro h
    unfold regionsError at h
    split at h
    · cases h
    · exact ⟨by assumption, h⟩
  · rintro ⟨h1, h2⟩
    unfold regionsError
    simp [h1, h2]

/-! Address fields -/

theorem onField_toNat (bits : Nat) {w : Nat} (v : BitVec w) : (onField bits v).toNat = v.toNat % 2 ^ bits := by
  simp only [onField, BitVec.toNat_setWidth]
  exact Nat.mod_eq_of_lt (lt_of_le_of_lt (Nat.mod_le _ _) v.isLt)

/-- A field carries no more than its width (30_encoding.md R102). -/
theorem onField_lt (bits : Nat) {w : Nat} (v : BitVec w) : (onField bits v).toNat < 2 ^ bits := by
  rw [onField_toNat]
  exact Nat.mod_lt _ (Nat.two_pow_pos bits)

/-- A value that fits the field is carried whole. -/
theorem onField_fits {bits w : Nat} {v : BitVec w} (h : v.toNat < 2 ^ bits) : onField bits v = v := by
  apply BitVec.eq_of_toNat_eq
  rw [onField_toNat, Nat.mod_eq_of_lt h]

theorem rebaseWord_lt (r : Region) (adr : WordAddr) : (rebaseWord r adr).toNat < 2 ^ mainAdrBits r := onField_lt _ _

theorem rebaseByte_lt (r : Region) (adr : CsrAddr) : (rebaseByte r adr).toNat < 2 ^ csrAdrBits r := onField_lt _ _

theorem idleMain_adr_lt (draw bits : Nat) (slot : Field → Slot) :
    (idleMain draw slot bits).q.adr.toNat < 2 ^ bits := onField_lt _ _

theorem idleCsr_adr_lt (draw bits : Nat) (slot : Field → Slot) :
    (idleCsr draw slot bits).q.adr.toNat < 2 ^ bits := onField_lt _ _

theorem fieldBits_some {bits : Region → Nat} {map : List Region} {k : Nat} {r : Region} (h : map[k]? = some r) :
    fieldBits bits map k = bits r := by
  simp [fieldBits, h]

/-! Arbitration -/

theorem select_mem {n last g : Nat} {pending : Nat → Bool} (h : select n last pending = some g) :
    pending g = true ∧ ∃ j, j < n ∧ g = (last + 1 + j) % n := by
  unfold select searchOrder at h
  have hm := List.mem_of_find?_eq_some h
  simp only [List.mem_map, List.mem_range] at hm
  obtain ⟨j, hj, e⟩ := hm
  exact ⟨List.find?_some h, j, hj, e.symm⟩

theorem select_lt {n last g : Nat} {pending : Nat → Bool} (h : select n last pending = some g) : g < n := by
  obtain ⟨-, j, hj, rfl⟩ := select_mem h
  exact Nat.mod_lt _ (by omega)

@[simp] theorem arbiterReturn_granted (draw g : Nat) (rsp : BusRsp) : arbiterReturn draw (some g) rsp g = rsp := by
  simp [arbiterReturn]

theorem arbiterReturn_other (draw i : Nat) {grant : Option Nat} (rsp : BusRsp) (h : grant ≠ some i) :
    arbiterReturn draw grant rsp i = noAnswer draw (.initiator i) := by
  simp [arbiterReturn, h]

@[simp] theorem noAnswer_ack (draw : Nat) (slot : Slot) : (noAnswer draw slot).ack = false := rfl
@[simp] theorem noAnswer_err (draw : Nat) (slot : Slot) : (noAnswer draw slot).err = false := rfl
@[simp] theorem noBeatAnswer_ack (draw : Nat) (slot : Slot) : (noBeatAnswer draw slot).ack = false := rfl
@[simp] theorem noBeatAnswer_err (draw : Nat) (slot : Slot) : (noBeatAnswer draw slot).err = false := rfl
@[simp] theorem idleMain_req (draw bits : Nat) (slot : Field → Slot) : (idleMain draw slot bits).req = false := rfl
@[simp] theorem idleCsr_req (draw bits : Nat) (slot : Field → Slot) : (idleCsr draw slot bits).req = false := rfl
@[simp] theorem idleBridgeIn_req (draw : Nat) : (idleBridgeIn draw).req = false := rfl
@[simp] theorem onShared_req (adr : WordAddr) (we : Bool) (sel : Lanes) (d : Word) : (onShared adr we sel d).req = true :=
  rfl
@[simp] theorem onCsr_req (adr : CsrAddr) (we select : Bool) (d : Byte) : (onCsr adr we select d).req = true := rfl

/-! The decoders -/

@[simp] theorem decoderRoute_onShared (cfg : Config) (adr : WordAddr) (we : Bool) (sel : Lanes) (d : Word) :
    decoderRoute cfg (onShared adr we sel d) = route cfg.mainMap (byteAddr adr) := rfl

@[simp] theorem csrRoute_onCsr (cfg : Config) (adr : CsrAddr) (we select : Bool) (d : Byte) :
    csrRoute cfg (onCsr adr we select d) = route cfg.csrMap adr.toNat := rfl

theorem decoderRoute_idle (cfg : Config) {shared : MainPort} (h : shared.req = false) :
    decoderRoute cfg shared = none := by
  simp [decoderRoute, h]

theorem csrRoute_idle (cfg : Config) {beat : CsrPort} (h : beat.req = false) : csrRoute cfg beat = none := by
  simp [csrRoute, h]

theorem targetPort_selected (draw bits k : Nat) {r : Region} (shared : MainPort) (h : r.target = .external) :
    targetPort draw bits (some (k, r)) shared k =
      { req := true, q := { shared.q with adr := rebaseWord r shared.q.adr } } := by
  simp [targetPort, h]

theorem targetPort_other (draw bits k i : Nat) (r : Region) (shared : MainPort) (h : k ≠ i) :
    (targetPort draw bits (some (k, r)) shared i).req = false := by
  simp [targetPort, h]

@[simp] theorem targetPort_unrouted (draw bits i : Nat) (shared : MainPort) :
    (targetPort draw bits none shared i).req = false := rfl

theorem csrTargetPort_selected (draw bits k : Nat) (r : Region) (beat : CsrPort) :
    csrTargetPort draw bits (some (k, r)) beat k = { req := true, q := { beat.q with adr := rebaseByte r beat.q.adr } } := by
  simp [csrTargetPort]

theorem csrTargetPort_other (draw bits k i : Nat) (r : Region) (beat : CsrPort) (h : k ≠ i) :
    (csrTargetPort draw bits (some (k, r)) beat i).req = false := by
  simp [csrTargetPort, h]

@[simp] theorem csrTargetPort_unrouted (draw bits i : Nat) (beat : CsrPort) :
    (csrTargetPort draw bits none beat i).req = false := rfl

/-! The CsrBridge -/

theorem bridgeBeat_busy (draw : Nat) {b : Bridge} (h : b.phase = .busy) :
    bridgeBeat draw b = { req := true, q := beatOf b.adr b.we b.sel b.dat b.k } := by
  simp [bridgeBeat, h]

theorem bridgeBeat_req (draw : Nat) (b : Bridge) : (bridgeBeat draw b).req = true ↔ b.phase = .busy := by
  unfold bridgeBeat
  cases h : b.phase <;> simp

theorem bridgeRsp_done (draw : Nat) {b : Bridge} (h : b.phase = .done) :
    bridgeRsp draw b = { ack := true, err := b.err, datR := bridgeData draw b } := by
  simp [bridgeRsp, h]

theorem bridgeRsp_not_done (draw : Nat) {b : Bridge} (h : b.phase ≠ .done) :
    bridgeRsp draw b = noAnswer draw .bridgeNone := by
  unfold bridgeRsp
  cases hp : b.phase <;> simp_all

/-- The code of a phase names it, and the value 3 names none (10_state.md R38). -/
@[simp] theorem brPhaseOfCode_code (p : BrPhase) : brPhaseOfCode (brPhaseCode p) = some p := by
  cases p <;> rfl

@[simp] theorem brPhaseOfCode_three : brPhaseOfCode 3 = none := rfl

/-- Everything an edge can do to the CsrBridge. -/
theorem bridgeNext_cases (b : Bridge) (bin : BridgePort) (rsp : BeatRsp) :
    (b.phase = .idle ∧ bin.req = true ∧ bridgeNext b bin rsp = bridgeAccept b bin) ∨
    (b.phase = .idle ∧ bin.req = false ∧ bridgeNext b bin rsp = b) ∨
    (b.phase = .busy ∧ bridgeNext b bin rsp = bridgeBeatEdge b rsp) ∨
    (b.phase = .done ∧ bridgeNext b bin rsp = { b with phase := .idle }) := by
  unfold bridgeNext
  cases hp : b.phase <;> cases hr : bin.req <;> simp

/-! The hold duty -/

theorem breaksDuty_iff (h : Option Wreq) (line : RequestLine) :
    breaksDuty h line = true ↔ ∃ q, h = some q ∧ (line.req = false ∨ line.word ≠ q) := by
  cases h <;> simp [breaksDuty]

theorem mem_cycleFaults {draw cycle n : Nat} {held : List (Option Wreq)} {inp : CycleInput} {f : Fault} :
    f ∈ cycleFaults draw cycle n held inp ↔
      ∃ i, i < n ∧ breaksDuty (heldBy held i) (requestLine draw inp i) = true ∧ f = .initiatorProtocol i cycle := by
  simp only [cycleFaults, List.mem_map, List.mem_filter, List.mem_range]
  constructor
  · rintro ⟨i, ⟨h1, h2⟩, rfl⟩
    exact ⟨i, h1, h2, rfl⟩
  · rintro ⟨i, h1, h2, rfl⟩
    exact ⟨i, ⟨h1, h2⟩, rfl⟩

theorem mem_addFaults {old new : List Fault} {f : Fault} : f ∈ addFaults old new ↔ f ∈ old ∨ f ∈ new := by
  simp only [addFaults, List.mem_append, List.mem_filter]
  constructor
  · rintro (h | ⟨h, -⟩)
    · exact .inl h
    · exact .inr h
  · rintro (h | h)
    · exact .inl h
    · by_cases ho : f ∈ old
      · exact .inl ho
      · exact .inr ⟨h, by simp [ho]⟩

theorem addFaults_eq_nil {old new : List Fault} : addFaults old new = [] ↔ old = [] ∧ new = [] := by
  constructor
  · intro h
    have ho : old = [] := by
      cases old with
      | nil => rfl
      | cons a as => simp [addFaults] at h
    subst ho
    simpa [addFaults] using h
  · rintro ⟨rfl, rfl⟩
    rfl

end Sys2Proof.Machine
end

