-- ==== Sys2Proof/Laws/Cycle.lean ====
section
/-! SUPPORT. What one cycle does, said once: the fields of a cycle's state, and that a step of the fabric is the cycle
with what the fabric itself puts on its buses. -/

namespace Sys2Proof.Machine

theorem fabricCycle_run {s : State} (shared : MainPort) (beat : CsrPort) (h : s.input.rst = false) :
    fabricCycle s shared beat = runEdge s (signals s shared beat) := by
  simp [fabricCycle, edge, h]

theorem fabricCycle_reset {s : State} (shared : MainPort) (beat : CsrPort) (h : s.input.rst = true) :
    fabricCycle s shared beat = resetEdge s (signals s shared beat) := by
  simp [fabricCycle, edge, h]

@[simp] theorem fabricCycle_cfg (s : State) (shared : MainPort) (beat : CsrPort) :
    (fabricCycle s shared beat).cfg = s.cfg := by
  unfold fabricCycle edge
  split <;> rfl

@[simp] theorem fabricCycle_bench (s : State) (shared : MainPort) (beat : CsrPort) :
    (fabricCycle s shared beat).bench = s.bench := by
  unfold fabricCycle edge
  split <;> rfl

@[simp] theorem fabricCycle_sig (s : State) (shared : MainPort) (beat : CsrPort) :
    (fabricCycle s shared beat).sig = signals s shared beat := by
  unfold fabricCycle edge
  split <;> rfl

@[simp] theorem fabricCycle_inputs (s : State) (shared : MainPort) (beat : CsrPort) :
    (fabricCycle s shared beat).inputs = s.inputs.tail := by
  unfold fabricCycle edge
  split <;> rfl

section
variable (s : State) (shared : MainPort) (beat : CsrPort)

@[simp] theorem signals_shared : (signals s shared beat).shared = shared := rfl
@[simp] theorem signals_beat : (signals s shared beat).beat = beat := rfl
@[simp] theorem signals_bridgeIn :
    (signals s shared beat).bridgeIn = bridgeInput s.draw (decoderRoute s.cfg shared) shared := rfl
@[simp] theorem signals_csrRsp :
    (signals s shared beat).csrRsp = csrDecoderRsp s.draw (csrRoute s.cfg beat) s.csrErr s.input := rfl
@[simp] theorem signals_brRsp : (signals s shared beat).brRsp = bridgeRsp s.draw s.br := rfl
@[simp] theorem signals_decRsp :
    (signals s shared beat).decRsp =
      decoderRsp s.draw (decoderRoute s.cfg shared) s.decErr s.input (bridgeRsp s.draw s.br) := rfl

theorem signals_target {k : Nat} (h : k < s.cfg.mainMap.length) :
    (signals s shared beat).targets[k]? =
      some (targetPort s.draw (fieldBits mainAdrBits s.cfg.mainMap k) (decoderRoute s.cfg shared) shared k) := by
  simp [signals, h]

theorem signals_csrTarget {u : Nat} (h : u < s.cfg.csrMap.length) :
    (signals s shared beat).csrTargets[u]? =
      some (csrTargetPort s.draw (fieldBits csrAdrBits s.cfg.csrMap u) (csrRoute s.cfg beat) beat u) := by
  simp [signals, h]

theorem signals_iniRsp {i : Nat} (h : i < s.cfg.n) :
    (signals s shared beat).iniRsp[i]? = some (arbiterReturn s.draw s.grant (signals s shared beat).decRsp i) := by
  simp [signals, h]

end

/-- A packed request's meaning is the cycle in which it stands on its bus: a `WREQ`. -/
theorem exec_decodeWreq (w : Wreq) (s : State) :
    exec (decodeWreq w) s = .next (fabricCycle s { req := true, q := BusReq.unpack w } (csrBus s)) := by
  rcases hq : BusReq.unpack w with ⟨adr, we, sel, datW⟩
  simp only [decodeWreq, hq]
  cases we <;> rfl

/-- A packed request's meaning is the cycle in which it stands on its bus: a `CREQ` that is not reserved. -/
theorem exec_decodeCreq (w : Creq) (s : State) (h : (BeatReq.unpack w).we = true ∨ (BeatReq.unpack w).select = true) :
    exec (decodeCreq w) s = .next (fabricCycle s (sharedBus s) { req := true, q := BeatReq.unpack w }) := by
  rcases hq : BeatReq.unpack w with ⟨adr, we, select, datW⟩
  rw [hq] at h
  simp only [decodeCreq, hq]
  cases we <;> cases select <;> first | rfl | simp at h

/-- A beat the CsrBridge forms is never of the reserved kind (30_encoding.md R111). -/
theorem beatOf_not_reserved (o : BridgeAddr) (we : Bool) (sel : Lanes) (dat : Word) (k : BeatIndex) :
    (beatOf o we sel dat k).we = true ∨ (beatOf o we sel dat k).select = true := by
  cases we <;> simp [beatOf]

/-- The shared bus carries the granted initiator's packed request. -/
theorem sharedBus_granted {s : State} {g : Nat} (h : s.grant = some g) :
    sharedBus s =
      { req := (requestLine s.draw s.input g).req, q := BusReq.unpack (requestLine s.draw s.input g).word } := by
  simp [sharedBus, arbiterForward, h]

theorem sharedBus_ungranted {s : State} (h : s.grant = none) : (sharedBus s).req = false := by
  simp [sharedBus, arbiterForward, h]

/-- What the fabric fetches, run, is the cycle the fabric would make of its own signals. -/
theorem run_fabricPacket (s : State) :
    (match (fabricPacket s).map decodePacket with
     | some i => exec i s
     | none => .next (idleCycle s)) = .next (idleCycle s) := by
  have hshared : (match (sharedPacket s).map decodePacket with
      | some i => exec i s
      | none => .next (idleCycle s)) = .next (idleCycle s) := by
    unfold sharedPacket
    cases hg : s.grant with
    | none => rfl
    | some g =>
      cases hr : (requestLine s.draw s.input g).req with
      | false => simp [hr]
      | true => simp [hr, decodePacket, exec_decodeWreq, idleCycle, sharedBus_granted hg]
  unfold fabricPacket
  cases hp : s.br.phase with
  | idle => exact hshared
  | done => exact hshared
  | busy =>
    have hb : csrBus s = { req := true, q := beatOf s.br.adr s.br.we s.br.sel s.br.dat s.br.k } :=
      bridgeBeat_busy s.draw hp
    simp only [Option.map_some, decodePacket, hb]
    rw [exec_decodeCreq _ _ (by simpa using beatOf_not_reserved _ _ _ _ _)]
    simp [idleCycle, hb]

/-- A step of the fabric (no bench) is one cycle with what the fabric itself puts on its two buses (45_fabric_step.md
R293, R294). -/
theorem step_eq_cycle {s : State} (hc : configError s.cfg = none) (hb : s.bench = []) :
    step s = .next (idleCycle s) := by
  have h := run_fabricPacket s
  simp only [step, hc, takeBench_nil hb, fetch, fetchPacket, hb]
  exact h

/-- Everything a step that answers a next state has done: the configuration was accepted, and the state is one cycle. -/
theorem step_next {s t : State} (h : step s = .next t) :
    configError s.cfg = none ∧ ∃ shared beat, t = fabricCycle (takeBench s) shared beat := by
  unfold step at h
  split at h
  · cases h
  · rename_i hc
    refine ⟨hc, ?_⟩
    split at h
    · rename_i i _
      cases i <;> simp only [exec, execWbRead, execWbWrite, execCsrRead, execCsrWrite, execCsrWriteNosel,
        execCsrReserved] at h <;> first | (cases h; exact ⟨_, _, rfl⟩) | cases h
    · cases h
      exact ⟨_, _, rfl⟩

end Sys2Proof.Machine
end

