-- ==== Sys2Proof/Laws/PerInstr.lean ====
section
/-! SUPPORT. For every transaction kind: its packed word matches its row of spec/opcode_table.json, and its bus is the
row's format (30_encoding.md R108, R109, R111). -/

namespace Sys2Proof.Laws.OpcodeBits

/-- The row of spec/opcode_table.json a kind stands for: the bus of its format, its match and its mask. -/
def row : Instr → Bus × Nat × Nat
  | .wbRead _ _ _ => (.main, 0x00000000000000000, 0x00000001000000000)
  | .wbWrite _ _ _ => (.main, 0x00000001000000000, 0x00000001000000000)
  | .csrRead _ _ => (.csr, 0x0000000100, 0x0000000300)
  | .csrWrite _ _ => (.csr, 0x0000000300, 0x0000000300)
  | .csrWriteNosel _ _ => (.csr, 0x0000000200, 0x0000000300)
  | .csrReserved _ _ => (.csr, 0x0000000000, 0x0000000300)

/-- The packed word of the kind is on the row's bus and, under the row's mask, is the row's match. -/
def Statement (i : Instr) : Prop :=
  packetBus (encode i) = (row i).1 ∧ packetBits (encode i) &&& (row i).2.2 = (row i).2.1

theorem wreq_opcode_bit (q : BusReq) :
    q.pack.toNat &&& 0x1000000000 = if q.we then 0x1000000000 else 0 := by
  apply Nat.eq_of_testBit_eq
  intro i
  have hb : (q.pack.toNat).testBit i = q.pack.getLsbD i := rfl
  rw [Nat.testBit_and, hb, show (0x1000000000 : Nat) = 2 ^ 36 from rfl, Nat.testBit_two_pow, busReq_pack_bit]
  cases q.we <;> simp only [Bool.false_eq_true, if_true, if_false, Nat.testBit_two_pow, Nat.zero_testBit] <;>
    by_cases h : i = 36 <;> simp_all <;> omega

/-- A number made of bits 8 and 9 alone has no other bit. -/
theorem testBit_outside (x y : Bool) (i : Nat) (h8 : i ≠ 8) (h9 : i ≠ 9) :
    Nat.testBit ((if y then 0x200 else 0) + (if x then 0x100 else 0)) i = false := by
  by_cases h : i < 10
  · interval_cases i <;> first | omega | (cases x <;> cases y <;> rfl)
  · apply Nat.testBit_lt_two_pow
    refine lt_of_lt_of_le ?_ (Nat.pow_le_pow_right (by decide : 0 < 2) (by omega : 10 ≤ i))
    cases x <;> cases y <;> decide

theorem creq_opcode_bits (q : BeatReq) :
    q.pack.toNat &&& 0x300 = (if q.we then 0x200 else 0) + (if q.select then 0x100 else 0) := by
  apply Nat.eq_of_testBit_eq
  intro i
  have hb : (q.pack.toNat).testBit i = q.pack.getLsbD i := rfl
  rw [Nat.testBit_and, hb, beatReq_pack_bit]
  by_cases h8 : i = 8
  · subst h8
    cases q.we <;> cases q.select <;> rfl
  by_cases h9 : i = 9
  · subst h9
    cases q.we <;> cases q.select <;> rfl
  rw [testBit_outside q.select q.we i h8 h9, show Nat.testBit 0x300 i = false from testBit_outside true true i h8 h9,
    Bool.and_false]

theorem wbRead (adr : WordAddr) (sel : Lanes) (datW : Word) : Statement (.wbRead adr sel datW) :=
  ⟨rfl, wreq_opcode_bit _⟩

theorem wbWrite (adr : WordAddr) (sel : Lanes) (datW : Word) : Statement (.wbWrite adr sel datW) :=
  ⟨rfl, wreq_opcode_bit _⟩

theorem csrRead (adr : CsrAddr) (datW : Byte) : Statement (.csrRead adr datW) := ⟨rfl, creq_opcode_bits _⟩

theorem csrWrite (adr : CsrAddr) (datW : Byte) : Statement (.csrWrite adr datW) := ⟨rfl, creq_opcode_bits _⟩

theorem csrWriteNosel (adr : CsrAddr) (datW : Byte) : Statement (.csrWriteNosel adr datW) := ⟨rfl, creq_opcode_bits _⟩

theorem csrReserved (adr : CsrAddr) (datW : Byte) : Statement (.csrReserved adr datW) := ⟨rfl, creq_opcode_bits _⟩

end Sys2Proof.Laws.OpcodeBits
end

