-- ==== Sys2Proof/Laws/Storage.lean ====
section
/-! SUPPORT. A storage target's bytes: every write keeps the canonical form, a read after a write gives the byte written,
and a write leaves every other address alone. -/

namespace Sys2Proof.Machine

theorem storageWf_cons {a : Nat} {b : Byte} {rest : Storage} :
    storageWf ((a, b) :: rest) = true ↔ b ≠ 0 ∧ (∀ c ∈ rest, a < c.1) ∧ storageWf rest = true := by
  simp [storageWf, and_assoc]

/-- An address no cell lists reads 0. -/
theorem storageRead_unlisted {m : Storage} {a : Nat} (h : ∀ c ∈ m, a ≠ c.1) : storageRead m a = 0 := by
  induction m with
  | nil => rfl
  | cons c rest ih =>
    obtain ⟨x, v⟩ := c
    have hx : a ≠ x := h (x, v) (by simp)
    simp only [storageRead, hx, if_false]
    exact ih (fun c hc => h c (by simp [hc]))

theorem storageRead_consCell {m : Storage} {a a' : Nat} {b : Byte} (h : ∀ c ∈ m, a < c.1) :
    storageRead (consCell a b m) a' = if a' = a then b else storageRead m a' := by
  unfold consCell
  by_cases hb : b = 0
  · subst hb
    by_cases ha : a' = a
    · subst ha
      simp [storageRead_unlisted (fun c hc => Nat.ne_of_lt (h c hc))]
    · simp [ha]
  · rw [if_neg hb, storageRead]

theorem consCell_wf {m : Storage} {a : Nat} {b : Byte} (hm : storageWf m = true) (h : ∀ c ∈ m, a < c.1) :
    storageWf (consCell a b m) = true := by
  unfold consCell
  split
  · exact hm
  · exact storageWf_cons.2 ⟨by assumption, h, hm⟩

/-- Every cell of a written storage was there before or is at the address written. -/
theorem mem_storageWrite {m : Storage} {a : Nat} {b : Byte} {c : Host.Cell} (h : c ∈ storageWrite m a b) :
    c ∈ m ∨ c.1 = a := by
  have hcons : ∀ {l : Storage}, c ∈ consCell a b l → c ∈ l ∨ c.1 = a := by
    intro l hl
    unfold consCell at hl
    split at hl
    · exact .inl hl
    · rcases List.mem_cons.1 hl with rfl | hl
      · exact .inr rfl
      · exact .inl hl
  induction m with
  | nil => exact hcons h
  | cons d rest ih =>
    obtain ⟨x, v⟩ := d
    unfold storageWrite at h
    split_ifs at h
    · exact hcons h
    · exact (hcons h).imp_left (List.mem_cons_of_mem _)
    · rcases List.mem_cons.1 h with rfl | h
      · exact .inl (by simp)
      · exact (ih h).imp_left (List.mem_cons_of_mem _)

/-- A write keeps the canonical form. -/
theorem storageWrite_wf {m : Storage} (a : Nat) (b : Byte) (hm : storageWf m = true) :
    storageWf (storageWrite m a b) = true := by
  induction m with
  | nil => exact consCell_wf rfl (by simp)
  | cons d rest ih =>
    obtain ⟨x, v⟩ := d
    obtain ⟨hv, hx, hr⟩ := storageWf_cons.1 hm
    unfold storageWrite
    split_ifs with h1 h2
    · refine consCell_wf hm ?_
      intro c hc
      rcases List.mem_cons.1 hc with rfl | hc
      · exact h1
      · exact lt_trans h1 (hx c hc)
    · subst h2
      exact consCell_wf hr hx
    · refine storageWf_cons.2 ⟨hv, ?_, ih hr⟩
      intro c hc
      rcases mem_storageWrite hc with hc | hc
      · exact hx c hc
      · omega

/-- A read after a write: the byte written at its address, and every other address as before. -/
theorem storageRead_write {m : Storage} (a a' : Nat) (b : Byte) (hm : storageWf m = true) :
    storageRead (storageWrite m a b) a' = if a' = a then b else storageRead m a' := by
  induction m with
  | nil => exact storageRead_consCell (by simp)
  | cons d rest ih =>
    obtain ⟨x, v⟩ := d
    obtain ⟨hv, hx, hr⟩ := storageWf_cons.1 hm
    unfold storageWrite
    by_cases h1 : a < x
    · rw [if_pos h1]
      refine storageRead_consCell ?_
      intro c hc
      rcases List.mem_cons.1 hc with rfl | hc
      · exact h1
      · exact lt_trans h1 (hx c hc)
    · by_cases h2 : a = x
      · subst h2
        rw [if_neg h1, if_pos rfl, storageRead_consCell hx]
        by_cases ha : a' = a
        · simp [ha]
        · simp [ha, storageRead]
      · rw [if_neg h1, if_neg h2]
        simp only [storageRead]
        rw [ih hr]
        by_cases hxa : a' = x
        · simp [hxa, Ne.symm h2]
        · simp [hxa]

end Sys2Proof.Machine
end

