-- ==== Sys2Proof/Laws/Trace.lean ====
section
/-! SUPPORT. What a trace program's drivers do, and that they keep the hold duty: a trace program never records a fault. -/

namespace Sys2Proof.Machine

/-- A request in hand is held (45_fabric_step.md R296). -/
theorem driverBegin_holding {c : Nat} {d : Driver} {w : Wreq} (h : d.out = some w) : driverBegin c d = d := by
  simp [driverBegin, h]

/-- An `IDLE` in progress is kept. -/
theorem driverBegin_waiting {c : Nat} {d : Driver} (h : 0 < d.wait) : driverBegin c d = d := by
  simp [driverBegin, h]

/-- With nothing in hand the next statement begins in the first cycle that `@<c>` admits. -/
theorem driverBegin_free {c : Nat} {d : Driver} (ho : d.out = none) (hw : d.wait = 0) :
    driverBegin c d = beginNext c d.todo := by
  simp [driverBegin, ho, hw]

theorem beginNext_issue {c : Nat} {start : Option Nat} {w : Wreq} {rest : List (Option Nat × TraceOp)}
    (h : heldBack start c = false) : beginNext c ((start, .issue w) :: rest) = { todo := rest, out := some w, wait := 0 } := by
  simp [beginNext, h]

theorem beginNext_heldBack {c : Nat} {start : Option Nat} {op : TraceOp} {rest : List (Option Nat × TraceOp)}
    (h : heldBack start c = true) :
    beginNext c ((start, op) :: rest) = { todo := (start, op) :: rest, out := none, wait := 0 } := by
  simp [beginNext, h]

theorem beginNext_idle {c n : Nat} {start : Option Nat} {rest : List (Option Nat × TraceOp)}
    (h : heldBack start c = false) :
    beginNext c ((start, .idle (n + 1)) :: rest) = { todo := rest, out := none, wait := n + 1 } := by
  simp [beginNext, h]

@[simp] theorem driverEnd_out (completed : Bool) (d : Driver) :
    (driverEnd completed d).out = if completed then none else d.out := rfl
@[simp] theorem driverEnd_todo (completed : Bool) (d : Driver) : (driverEnd completed d).todo = d.todo := rfl
@[simp] theorem driverEnd_wait (completed : Bool) (d : Driver) : (driverEnd completed d).wait = d.wait - 1 := rfl

section
variable (r : TraceRun)

@[simp] theorem traceState_cfg : (traceState r).cfg = r.state.cfg := rfl
@[simp] theorem traceState_bench : (traceState r).bench = r.state.bench := rfl
@[simp] theorem traceState_held : (traceState r).held = r.state.held := rfl
@[simp] theorem traceState_faults : (traceState r).faults = r.state.faults := rfl
@[simp] theorem traceState_grant : (traceState r).grant = r.state.grant := rfl
@[simp] theorem traceState_last : (traceState r).last = r.state.last := rfl
@[simp] theorem traceState_decErr : (traceState r).decErr = r.state.decErr := rfl
@[simp] theorem traceState_br : (traceState r).br = r.state.br := rfl
@[simp] theorem traceState_csrErr : (traceState r).csrErr = r.state.csrErr := rfl
@[simp] theorem traceState_draw : (traceState r).draw = r.state.draw := rfl
@[simp] theorem traceState_rst : (traceState r).input.rst = r.state.input.rst := rfl
@[simp] theorem traceState_main : (traceState r).input.main = r.state.input.main := rfl
@[simp] theorem traceState_csr : (traceState r).input.csr = r.state.input.csr := rfl
@[simp] theorem traceState_ini :
    (traceState r).input.ini = (traceDrivers r).mapIdx (driverLine r.state.draw) := rfl

end

/-- What initiator `i` drives in a cycle of a trace program is its driver's line. -/
theorem trace_requestLine {r : TraceRun} {i : Nat} {d : Driver} (h : r.drivers[i]? = some d) :
    requestLine (traceState r).draw (traceState r).input i =
      driverLine r.state.draw i (driverBegin r.cycle d) := by
  simp [requestLine, traceDrivers, List.getD_eq_getElem?_getD, List.getElem?_mapIdx, h]

/-- Everything a trace cycle that answers a run has done. -/
theorem traceCycle_next {r r' : TraceRun} (h : traceCycle r = .next r') :
    ∃ t, step (traceState r) = .next t ∧ r' = traceNext r t := by
  unfold traceCycle at h
  split at h
  · rename_i t ht
    cases h
    exact ⟨t, ht, rfl⟩
  · cases h
  · cases h

/-- The driver's request after a cycle is the one the hold-duty check holds. -/
theorem heldNext_driver {draw i : Nat} (d : Driver) (rsp : BusRsp) (c : Nat) :
    heldNext d.out (driverLine draw i (driverBegin c d)) rsp =
      if completes rsp.ack rsp.err then none else (driverBegin c d).out := by
  unfold heldNext
  split
  · rfl
  · cases ho : d.out with
    | some w => simp [driverBegin_holding ho, ho]
    | none =>
      cases hb : (driverBegin c d).out with
      | none => simp [driverLine, hb]
      | some w => simp [driverLine, hb]

/-- A driver keeps the hold duty. -/
theorem driver_keeps_duty (draw i c : Nat) (d : Driver) :
    breaksDuty d.out (driverLine draw i (driverBegin c d)) = false := by
  cases ho : d.out with
  | none => rfl
  | some w => simp [driverBegin_holding ho, breaksDuty, driverLine, ho]

/-- A trace program's cycle records no fault, and the fabric holds what the drivers hold (45_fabric_step.md R296). -/
theorem traceCycle_holds {r r' : TraceRun} (hr : TraceHolds r) (hb : r.state.bench = []) (h : traceCycle r = .next r') :
    TraceHolds r' ∧ r'.state.faults = r.state.faults ∧ r'.state.bench = [] := by
  obtain ⟨t, ht, rfl⟩ := traceCycle_next h
  obtain ⟨hc, -⟩ := step_next ht
  rw [step_eq_cycle hc (by simpa using hb)] at ht
  cases ht
  have hdrv : ∀ i, i < r.state.cfg.n → ∃ d, r.drivers[i]? = some d := fun i hi =>
    ⟨_, List.getElem?_eq_getElem (by rw [hr.drivers_len]; exact hi)⟩
  unfold idleCycle
  cases hrst : r.state.input.rst with
  | true =>
    rw [fabricCycle_reset _ _ (by simpa using hrst)]
    simp only [traceNext, hrst, if_true]
    refine ⟨⟨hr.program_len, hr.program_len, ?_, hr.start_quiet⟩, rfl, hb⟩
    intro i d hd
    rw [hr.start_quiet d (List.mem_of_getElem? hd)]
    simp only [resetEdge_held, heldBy, List.getD_eq_getElem?_getD, List.getElem?_replicate]
    split <;> rfl
  | false =>
    rw [fabricCycle_run _ _ (by simpa using hrst)]
    simp only [traceNext, hrst, Bool.false_eq_true, if_false]
    refine ⟨⟨?_, hr.program_len, ?_, hr.start_quiet⟩, ?_, hb⟩
    · simpa [traceDrivers] using hr.drivers_len
    · intro i d' hd'
      simp only [List.getElem?_mapIdx, traceDrivers, List.getElem?_map, Option.map_eq_some_iff] at hd'
      obtain ⟨_, ⟨d, hd, rfl⟩, rfl⟩ := hd'
      have hi : i < r.state.cfg.n := by
        rw [← hr.drivers_len]
        exact (List.getElem?_eq_some_iff.1 hd).1
      have hrsp : (signals (traceState r) (sharedBus (traceState r)) (csrBus (traceState r))).iniRsp[i]? =
          some (responseTo (traceState r)
            (signals (traceState r) (sharedBus (traceState r)) (csrBus (traceState r))) i) :=
        signals_iniRsp _ _ _ (by simpa using hi)
      simp only [runEdge_held, heldBy, List.getD_eq_getElem?_getD, List.getElem?_map, traceState_cfg, List.getElem?_range hi,
        Option.map_some, Option.getD_some, driverEnd_out, runEdge_sig, completedIn, hrsp]
      rw [show (traceState r).held[i]?.getD none = d.out from hr.held_eq i d hd, trace_requestLine hd]
      exact heldNext_driver _ _ _
    · simp only [runEdge_faults, traceState_faults]
      have hnone : cycleFaults (traceState r).draw (traceState r).cycle (traceState r).cfg.n (traceState r).held
          (traceState r).input = [] := by
        apply List.eq_nil_iff_forall_not_mem.2
        intro f hf
        obtain ⟨i, hi, hbr, -⟩ := mem_cycleFaults.1 hf
        obtain ⟨d, hd⟩ := hdrv i (by simpa using hi)
        rw [trace_requestLine hd, traceState_held, hr.held_eq i d hd, driver_keeps_duty] at hbr
        cases hbr
      rw [hnone]
      simp [addFaults]

/-- At its start on a fabric that holds no request, a trace program and its fabric agree. -/
theorem traceStart_holds {s : State} {tr : Trace} {r : TraceRun} (h : traceStart s tr = some r)
    (hs : ∀ i, heldBy s.held i = none) : TraceHolds r := by
  unfold traceStart at h
  split at h
  · cases h
    have hq : ∀ d, d ∈ (List.range s.cfg.n).map (driverOf tr) → d.out = none := by
      intro d hd
      obtain ⟨i, -, rfl⟩ := List.mem_map.1 hd
      rfl
    exact ⟨by simp, by simp, fun i d hd => by rw [hq d (List.mem_of_getElem? hd)]; exact hs i, hq⟩
  · cases h

end Sys2Proof.Machine
end

