-- ==== Sys2Proof/Tests/Slice0.lean ====
section
/-! SUPPORT. The model's own tests, expected values from spec/95_test_vectors.md and the rules named; and, for every
statement with hypotheses, a state and operands that meet them all (`witness_`). -/

namespace Sys2Proof.Tests

open Sys2Proof Sys2Proof.Machine

/-! ## Well-formedness: an ill-formed term for each check -/

theorem test_wf_kinds :
    (Instr.wbRead 0 0 0).wf = true ∧ (Instr.wbWrite 0 0 0).wf = true ∧ (Instr.csrRead 0 0).wf = true ∧
    (Instr.csrWrite 0 0).wf = true ∧ (Instr.csrWriteNosel 0 0).wf = true := by decide

/-- R111: the reserved kind. -/
theorem test_wf_reserved : (Instr.csrReserved 0 0).wf = false := by decide

/-- R115: `RD` and `WR` take multiples of 4. -/
theorem test_wf_misaligned :
    (Stmt.rd 4 15).wf = true ∧ (Stmt.rd 6 15).wf = false ∧ (Stmt.wr 8 0 15).wf = true ∧ (Stmt.wr 9 0 15).wf = false := by
  decide

/-- A main-bus byte address has 32 bits. -/
theorem test_wf_range :
    (Stmt.rd 0xfffffffc 15).wf = true ∧ (Stmt.rd 0x100000000 15).wf = false ∧ (Stmt.wr 0x100000000 0 15).wf = false ∧
    (Stmt.rdb 0xffffffff).wf = true ∧ (Stmt.rdb 0x100000000).wf = false ∧ (Stmt.wrb 0x100000000 0).wf = false ∧
    (Stmt.rdh 0xfffffffe).wf = true ∧ (Stmt.rdh 0x100000000).wf = false ∧ (Stmt.wrh 0x100000000 0).wf = false := by decide

/-- R116: a halfword at an odd address. -/
theorem test_wf_odd_halfword : (Stmt.rdh 1).wf = false ∧ (Stmt.wrh 3 0).wf = false ∧ (Stmt.idle 0).wf = true := by decide

/-! ## Decoding: words written out from 30_encoding.md R104 and R106 and from 95_test_vectors.md -/

/-- `adr = 0x04000040`, `we = 0`, `sel = 0b1111`, `dat_w = 0`, bit by bit. -/
theorem test_decode_wbRead :
    decodeWreq 0b000100000000000000000001000000_0_1111_00000000000000000000000000000000#67 =
      .wbRead 0x04000040 0xf 0 := by decide

/-- `adr = 0x2c400001`, `we = 1`, `sel = 0b0101`, `dat_w = 0xaabbccdd`, bit by bit. -/
theorem test_decode_wbWrite :
    decodeWreq 0b101100010000000000000000000001_1_0101_10101010101110111100110011011101#67 =
      .wbWrite 0x2c400001 0x5 0xaabbccdd := by decide

/-- `adr = 0x1000004`, `we = 0`, `select = 1`, `dat_w = 0`, bit by bit. -/
theorem test_decode_csrRead : decodeCreq 0b0001000000000000000000000100_0_1_00000000#38 = .csrRead 0x1000004 0 := by decide

theorem test_decode_csrWrite : decodeCreq 0b0001000000000000000000000100_1_1_11011101#38 = .csrWrite 0x1000004 0xdd := by
  decide

theorem test_decode_csrWriteNosel :
    decodeCreq 0b0001000000000000000000000101_1_0_11001100#38 = .csrWriteNosel 0x1000005 0xcc := by decide

theorem test_decode_csrReserved :
    decodeCreq 0b0001000000000000000000000100_0_0_00000000#38 = .csrReserved 0x1000004 0 := by decide

/-- The words of 95_test_vectors.md sections 1.1 and 2.4 (V-B1, V-B3, V-B4), encoded. -/
theorem test_encode_words :
    encode (.wbRead 0x04000040 0xf 0) = .wreq 0x08000080f00000000 ∧
    encode (.wbRead 0x2c400001 0xf 0) = .wreq 0x58800002f00000000 ∧
    encode (.wbRead 0x08000000 0xf 0) = .wreq 0x10000000f00000000 ∧
    encode (.wbRead 0x2c400002 0 0) = .wreq 0x58800004000000000 ∧
    encode (.wbWrite 0x2c400000 0 0x12345678) = .wreq 0x58800001012345678 ∧
    encode (.csrWrite 0x1000006 0xbb) = .creq 0x0400001bbb ∧
    encode (.csrWriteNosel 0x1000007 0xaa) = .creq 0x0400001eaa ∧
    encode (.csrRead 0x1000007 0) = .creq 0x0400001d00 := by decide

/-- `WRSP = 0x300000000` and `CRSP = 0x300` are the synthesized errors (sections 1.4 and 2.5). -/
theorem test_packed_errors : synthesizedError.pack = 0x300000000 ∧ synthesizedBeatError.pack = 0x300 := by decide

theorem test_unpack_responses :
    BusRsp.unpack 0x300000000 = synthesizedError ∧ BeatRsp.unpack 0x300 = synthesizedBeatError := by decide

/-- R115, R116: statements of the trace notation. -/
theorem test_statements :
    stmtPacket (.wr 0xb1000004 0xaabbccdd 5) = some (.wreq 0x588000035aabbccdd) ∧
    stmtInstr (.rdb 0x10000003) = some (.wbRead 0x04000000 8 0) ∧
    stmtInstr (.wrb 0x10000101 0xab) = some (.wbWrite 0x04000040 2 0x0000ab00) ∧
    stmtInstr (.wrh 0x10000002 0xbeef) = some (.wbWrite 0x04000000 0xc 0xbeef0000) ∧
    stmtInstr (.rdh 0xfffffffe) = some (.wbRead 0x3fffffff 0xc 0) ∧ stmtInstr (.rdh 0x10000001) = none ∧
    stmtInstr (.idle 3) = none := by decide

/-- P1 and P3 of section 3: the packed words of statements, the mask written and not written; `IDLE`; `RDB`'s byte. -/
theorem test_statement_ops :
    stmtOp (.wr 0x10000100 0x11223344) = some (.issue 0x08000081f11223344) ∧
    stmtOp (.rd 0x10000100) = some (.issue 0x08000080f00000000) ∧
    stmtOp (.rd 0xb1000008 0) = some (.issue 0x58800004000000000) ∧ stmtOp (.rd 0x10000102) = none ∧
    stmtOp (.idle 2) = some (.idle 2) ∧ rdbByte 0x10000102 0x44332211 = 0x33 := by decide

theorem test_bytes_refused :
    decodeBytes .csr [0, 1, 0, 0] = .error (.truncated .csr) ∧
    decodeBytes .csr [0, 1, 0, 0, 0x40] = .error (.padding .csr) ∧
    decodeBytes .csr [0, 1, 0, 0, 0x04, 7] = .ok (.csrRead 0x1000000 0, [7]) := by
  refine ⟨by rfl, by rfl, by rfl⟩

/-- The rows of spec/opcode_table.json: the match words. -/
theorem test_table_words :
    decodeTableWord 72 0x00000000000000000 = some (.wbRead 0 0 0) ∧
    decodeTableWord 72 0x00000001000000000 = some (.wbWrite 0 0 0) ∧
    decodeTableWord 40 0x0000000100 = some (.csrRead 0 0) ∧
    decodeTableWord 40 0x0000000300 = some (.csrWrite 0 0) ∧
    decodeTableWord 16 0x0000000200 = some (.csrWriteNosel 0 0) ∧
    decodeTableWord 16 0x0000000000 = some (.csrReserved 0 0) := by decide

/-! ## Address map and construction (section 2.1) -/

/-- The name a map routes an address to. -/
def routeName (map : List Region) (a : Nat) : Option String := (route map a).map (fun p => p.2.name)

/-- V-M1. -/
theorem test_main_routes :
    [0x00000000, 0x00100000, 0x00fffffc, 0x01000000, 0x10000000, 0x100007fc, 0x10000800, 0x9ffffffc, 0xa0000000,
      0xa0000ffc, 0xa0001000, 0xaffffffc, 0xb0000000, 0xbffffffc, 0xc0000000, 0xfffffffc].map
        (routeName exampleConfig.mainMap) =
      [some "flash", some "flash", some "flash", none, some "sram", some "sram", none, none, some "debug", some "debug",
        none, none, some "csr", some "csr", none, none] := by decide

/-- V-M2. -/
theorem test_csr_routes :
    [0x0000000, 0x0ffffff, 0x1000000, 0x100001f, 0x1000020, 0x2000000, 0x200001f, 0x2000020, 0x4000000, 0x400000f,
      0x4000010, 0xfffffff].map (routeName exampleConfig.csrMap) =
      [none, none, some "gpio", some "gpio", none, some "uart", some "uart", none, some "id", some "id", none, none] := by
  decide

/-- R102: 9 bits for `sram`, 5 for `gpio`, 26 for the CsrBridge window, and none for a region of size 4 or 1. -/
theorem test_port_widths :
    exampleConfig.mainMap.map mainAdrBits = [22, 9, 10, 26] ∧ exampleConfig.csrMap.map csrAdrBits = [5, 5, 4] ∧
    mainAdrBits (mainRegion "r" 0 4 .external) = 0 ∧ csrAdrBits (csrRegion "r" 0 1) = 0 := by decide

/-- R38. -/
theorem test_phase_codes :
    [BrPhase.idle, .busy, .done].map brPhaseCode = [0, 1, 2] ∧ brPhaseOfCode 3 = none := by decide

/-- A target of the main bus's shape. -/
def port32 (size : Nat) : TargetPort := { target := .external, size := size, dataWidth := 32, granularity := 8 }

/-- V-M4 to V-M12, and a 16-bit port. -/
theorem test_construction_errors :
    addCheck false .main exampleConfig.mainMap (port32 0x100) "x" 0x10000000 = some (.overlap "x" "sram") ∧
    addCheck false .main exampleConfig.mainMap (port32 0x800) "y" 0x10000800 = none ∧
    addCheck false .main exampleConfig.mainMap (port32 4) "z" 0xa0000ffc = some (.overlap "z" "debug") ∧
    addCheck false .main exampleConfig.mainMap (port32 0) "w" 0x20000000 = some (.zeroSize "w") ∧
    addCheck false .main exampleConfig.mainMap (port32 0x2000) "r" 0xfffff000 = some (.range "r") ∧
    addCheck false .main exampleConfig.mainMap (port32 8) "m" 0x20000004 = some (.misalignedRegion "m") ∧
    addCheck false .main exampleConfig.mainMap (port32 6) "h" 0x20000000 = some (.misalignedRegion "h") ∧
    addCheck true .main exampleConfig.mainMap (port32 0) "l" 0x20000000 = some (.lateRegistration "l") ∧
    addCheck false .main exampleConfig.mainMap (port32 0x800) "sram" 0x20000000 = some (.duplicateName "sram") ∧
    addCheck false .main [] { port32 4 with dataWidth := 16 } "n" 0 = some (.widthMismatch "n") := by decide

/-- A CSR target. -/
def port8 (size : Nat) : TargetPort := { target := .external, size := size, dataWidth := 8, granularity := 8 }

theorem test_csr_construction :
    addCheck false .csr exampleConfig.csrMap (port8 0x10) "g2" 0x1000010 = some (.overlap "g2" "gpio") ∧
    addCheck false .csr exampleConfig.csrMap (port8 0x20) "g3" 0x1000020 = none := by decide

theorem test_initiator_errors :
    initiatorCheck false { name := "i", dataWidth := 16, granularity := 8 } = some (.widthMismatch "i") ∧
    initiatorCheck true (mainInitiator "i") = some (.lateRegistration "i") ∧
    configError { exampleConfig with initiators := [] } = some .noInitiator := by decide

/-- V-M13. -/
theorem test_overlaps :
    let r := mainRegion "r" 0x100 0x100 .external
    [overlaps r 0x200 0x100, overlaps r 0 0x100, overlaps r 0x1fc 4, overlaps r 0 0x104, overlaps r 0 0x400,
      overlaps r 0x140 0x10] = [false, false, true, true, true, true] := by decide

/-! ## The Arbiter (section 2.3) -/

/-- The requesters of a list. -/
def among (l : List Nat) : Nat → Bool := fun i => l.contains i

/-- V-A1, every case. -/
theorem test_select :
    [0, 1, 2].map (fun last =>
      [[0], [1], [0, 1], [2], [0, 2], [1, 2], [0, 1, 2]].map (fun l => select 3 last (among l))) =
      [[some 0, some 1, some 1, some 2, some 2, some 1, some 1],
       [some 0, some 1, some 0, some 2, some 2, some 2, some 2],
       [some 0, some 1, some 0, some 2, some 0, some 1, some 0]] := by decide

/-- V-A2: the first six grants under continuous requests go to 0, 1, 2, 0, 1, 2. -/
theorem test_fairness :
    (List.range 6).map (fun k => select 3 (pointerAfter 3 2 (fun _ _ => true) k) (fun _ => true)) =
      [some 0, some 1, some 2, some 0, some 1, some 2] := by decide

/-! ## States for one-step tests and witnesses -/

def line (w : Wreq) : RequestLine := { req := true, word := w }
def quietLine : RequestLine := { req := false, word := 0 }
def okM (d : Word) : BusRsp := { ack := true, err := false, datR := d }
def noM : BusRsp := { ack := false, err := false, datR := 0 }
def okC (d : Byte) : BeatRsp := { ack := true, err := false, datR := d }
def errC : BeatRsp := { ack := false, err := true, datR := 0 }
def noC : BeatRsp := { ack := false, err := false, datR := 0 }

/-- One cycle's environment: the request lines, the main-bus answers and the CSR answers. -/
def cyc (ini : List RequestLine) (main : List BusRsp) (csr : List BeatRsp) : CycleInput :=
  { rst := false, ini := ini, main := main, csr := csr }

/-- A request of `I0` alone. -/
def from0 (w : Wreq) : List RequestLine := [line w, quietLine, quietLine]

/-- Three initiators, none of them requesting. -/
def from0Quiet : List RequestLine := [quietLine, quietLine, quietLine]

def rdSram : Wreq := 0x08000080f00000000
def wrSram : Wreq := 0x08000081f11223344
def rdUnmapped : Wreq := 0x10000000f00000000
def rdGpio : Wreq := 0x58800002f00000000
def wrGpio : Wreq := 0x588000035aabbccdd

/-- A running fabric in which `I0` is granted and holds `w`, with a schedule of inputs. -/
def granted (w : Wreq) (inputs : List CycleInput) : State :=
  { State.reset with started := true, grant := some 0, last := 0, held := [some w, none, none], inputs := inputs }

/-- Nobody is granted; the first cycle's request lines are given. -/
def waiting (lines : List RequestLine) : State :=
  { State.reset with started := true, inputs := [cyc lines [] []] }

/-- `sram` answers with `a`. -/
def sramAnswers (w : Wreq) (a : BusRsp) : CycleInput := cyc (from0 w) [noM, a, noM, noM] []

/-- `gpio` answers with `a`. -/
def gpioAnswers (w : Wreq) (a : BeatRsp) : CycleInput := cyc (from0 w) [] [a, noC, noC]

/-- The CsrBridge with the wide request of `w` (at `gpio` byte 4) latched. -/
def latched (w : Wreq) (phase : BrPhase) (k : BeatIndex) (rbuf : Word) (err : Bool) : Bridge :=
  { phase := phase, k := k, adr := 0x400001, we := (BusReq.unpack w).we, dat := (BusReq.unpack w).datW,
    sel := (BusReq.unpack w).sel, rbuf := rbuf, err := err }

/-- A wide transaction in flight, with the next cycle's answer of `gpio`. -/
def inFlight (w : Wreq) (phase : BrPhase) (k : BeatIndex) (rbuf : Word) (err : Bool) (a : BeatRsp) : State :=
  { granted w [gpioAnswers w a] with br := latched w phase k rbuf err }

def sramRegion : Region := mainRegion "sram" 0x10000000 0x800 .external
def csrWindow : Region := mainRegion "csr" 0xb0000000 0x10000000 .bridge
def gpioRegion : Region := csrRegion "gpio" 0x1000000 0x20

/-- The state a step answers, if it answers one. -/
def nextOf (o : Host.Outcome State Fault Refusal) : Option State :=
  match o with
  | .next t => some t
  | .fault _ => none
  | .refused _ => none

/-! ## One step of each kind -/

/-- V-D1: `T[sram]` sees word offset 0x40, and `I0` sees the target's answer. -/
theorem test_wbRead_mapped :
    ((nextOf (exec (.wbRead 0x04000040 0xf 0) (granted rdSram [sramAnswers rdSram (okM 0xcafe0001)]))).map
      (fun t => (t.sig.targets[1]?, t.sig.iniRsp[0]?, t.grant))) =
      some (some { req := true, q := { adr := 0x40, we := false, sel := 0xf, datW := 0 } }, some (okM 0xcafe0001),
        none) := by decide

/-- V-D2: the second cycle of an unmapped read. -/
theorem test_wbRead_unmapped :
    ((nextOf (exec (.wbRead 0x08000000 0xf 0)
      { granted rdUnmapped [cyc (from0 rdUnmapped) [] []] with decErr := true })).map
      (fun t => (t.sig.iniRsp[0]?.map BusRsp.pack, t.decErr, t.grant, t.sig.busError))) =
      some (some 0x300000000, false, none, some .unmapped) := by decide

/-- V-D5: the mask and the data are forwarded unchanged. -/
theorem test_wbWrite_partial :
    ((nextOf (exec (.wbWrite 0x04000040 2 0x0000ab00) (granted wrSram [sramAnswers wrSram (okM 0)]))).map
      (fun t => t.sig.targets[1]?)) =
      some (some { req := true, q := { adr := 0x40, we := true, sel := 2, datW := 0x0000ab00 } }) := by decide

/-- P3, c1: the accept cycle of a wide write. -/
theorem test_wbWrite_accept :
    ((nextOf (exec (.wbWrite 0x2c400001 5 0xaabbccdd) (granted wrGpio [gpioAnswers wrGpio noC]))).map
      (fun t => (t.br, t.grant))) =
      some (latched wrGpio .busy 0 0 false, some 0) := by decide

/-- V-C2: the beat reaches `U[gpio]` with `adr = 0x1f`. -/
theorem test_csrRead_rebased :
    ((nextOf (exec (.csrRead 0x100001f 0) (inFlight rdGpio .busy 0 0 false (okC 0x11)))).map
      (fun t => (t.sig.csrTargets[0]?, t.sig.csrRsp))) =
      some (some { req := true, q := { adr := 0x1f, we := false, select := true, datW := 0 } }, okC 0x11) := by decide

/-- V-C3: the second cycle of an unmapped beat. -/
theorem test_csrRead_unmapped :
    ((nextOf (exec (.csrRead 0x1000020 0) { inFlight rdGpio .busy 2 0xa55a false noC with csrErr := true })).map
      (fun t => (t.sig.csrRsp.pack, t.csrErr, t.br.phase, t.br.err, t.br.k))) =
      some (0x300, false, .done, true, 2) := by decide

/-- P3, c2: beat 0 of the partial write. -/
theorem test_csrWrite_beat :
    ((nextOf (exec (.csrWrite 0x1000004 0xdd) (inFlight wrGpio .busy 0 0 false (okC 0)))).map
      (fun t => (t.sig.csrTargets[0]?, t.br.k, t.br.phase))) =
      some (some { req := true, q := { adr := 4, we := true, select := true, datW := 0xdd } }, 1, .busy) := by decide

/-- V-B6: an error at beat 0 aborts. -/
theorem test_csrWrite_abort :
    ((nextOf (exec (.csrWrite 0x1000004 0xdd) (inFlight wrGpio .busy 0 0 false errC))).map
      (fun t => (t.br.k, t.br.phase, t.br.err, t.sig.beatError))) =
      some (0, .done, true, some .csrTarget) := by decide

/-- P3, c5: the last beat, an unselected lane, is issued all the same. -/
theorem test_csrWriteNosel_last :
    ((nextOf (exec (.csrWriteNosel 0x1000007 0xaa) (inFlight wrGpio .busy 3 0 false (okC 0)))).map
      (fun t => (t.sig.csrTargets[0]?, t.br.k, t.br.phase))) =
      some (some { req := true, q := { adr := 7, we := true, select := false, datW := 0xaa } }, 3, .done) := by decide

/-- V-B2, beat 3: the buffer holds all four bytes. -/
theorem test_read_assembly :
    ((nextOf (step (inFlight rdGpio .busy 3 0x00332211 false (okC 0x44)))).map (fun t => (t.br.rbuf, t.br.phase))) =
      some (0x44332211, .done) := by decide

/-- P3, c13: the aggregate response. -/
theorem test_aggregate_read :
    ((nextOf (step (inFlight rdGpio .done 3 0x44bb22dd false noC))).map (fun t => (t.sig.iniRsp[0]?, t.grant))) =
      some (some (okM 0x44bb22dd), none) := by decide

/-- R320: an aborted wide transaction has the cause of its failing beat, here a target's error at `gpio` byte 6 and an
unmapped beat (P4, byte 2). -/
theorem test_aggregate_cause :
    ((nextOf (step (inFlight rdGpio .done 2 0 true noC))).map (fun t => t.sig.busError)) = some (some .csrTarget) ∧
    ((nextOf (step { inFlight rdGpio .done 2 0 true noC with br := { latched rdGpio .done 2 0 true with adr := 0 } })).map
      (fun t => t.sig.busError)) = some (some .unmappedCsr) := by decide

/-- P4, c7 and c8: a recorder sees an unmapped beat once, although it stands for two cycles. -/
theorem test_recorder_unmapped :
    recordBeats 2 { granted rdGpio [gpioAnswers rdGpio noC, gpioAnswers rdGpio noC] with
      br := { latched rdGpio .busy 2 0 false with adr := 0 } } = [beatOf 0 false 0xf 0 2] := by decide

/-- P2 of section 3. -/
def programP2 : Trace :=
  [{ initiator := 0, start := some 0, stmt := .wr 0x10000000 0xa },
    { initiator := 1, start := some 0, stmt := .wr 0x10000004 0xb },
    { initiator := 0, start := some 2, stmt := .rd 0x10000004 }]

/-- P2, c0: `I0` and `I1` raise their requests and `I0` is granted. -/
theorem test_trace_first_cycle :
    (traceStart (waiting []) programP2).map (fun r => (traceState r).input.ini.map RequestLine.req) =
      some [true, true, false] ∧
    (traceStart (waiting []) programP2).map (fun r => (idleCycle (traceState r)).grant) = some (some 0) := by decide

/-- R115, R116: the next request in the cycle after a completion, but not before its `@<c>`; two quiet cycles of
`IDLE 2`. -/
theorem test_drivers :
    let d : Driver := { todo := [(none, .issue 7), (some 9, .issue 8)], out := some 6, wait := 0 }
    let e : Driver := { todo := [(none, .idle 2), (none, .issue 8)], out := some 6, wait := 0 }
    (driverBegin 2 d).out = some 6 ∧ (driverBegin 3 (driverEnd true d)).out = some 7 ∧
    (driverBegin 4 (driverEnd true (driverBegin 3 (driverEnd true d)))).out = none ∧
    (driverBegin 9 (driverEnd true (driverBegin 3 (driverEnd true d)))).out = some 8 ∧
    (driverBegin 3 (driverEnd true e)).out = none ∧
    (driverBegin 4 (driverEnd false (driverBegin 3 (driverEnd true e)))).out = none ∧
    (driverBegin 5 (driverEnd false (driverBegin 4 (driverEnd false (driverBegin 3 (driverEnd true e)))))).out =
      some 8 := by decide

/-- A program whose line names no initiator is refused. -/
theorem test_trace_refused :
    (traceStart State.reset [{ initiator := 3, stmt := .rd 0 }]).isNone = true ∧
    (traceStart State.reset [{ initiator := 2, stmt := .rdh 3 }]).isNone = true := by decide

/-- V-A6: the first grant after reset. -/
theorem test_first_grant :
    ((nextOf (step (waiting [quietLine, line rdSram, line rdSram]))).map (fun t => (t.grant, t.last))) =
      some (some 1, 1) := by decide

/-- V-A5: `I1` drops its held request. -/
theorem test_hold_fault :
    ((nextOf (step { granted rdSram [sramAnswers rdSram noM] with held := [some rdSram, some wrSram, none], cycle := 2 })).map
      (fun t => (t.faults, t.held))) =
      some ([.initiatorProtocol 1 2], [some rdSram, some wrSram, none]) := by decide

/-- V-R1 and V-R2: reset in the middle of a wide write. -/
theorem test_reset_edge :
    ((nextOf (step { inFlight wrGpio .busy 1 0 false (okC 0) with
      inputs := [{ gpioAnswers wrGpio (okC 0) with rst := true }], faults := [.initiatorProtocol 1 2] })).map
      (fun t => (t.last, t.br.phase, t.held, t.faults))) =
      some (2, .idle, [none, none, none], [.initiatorProtocol 1 2]) := by decide

/-- The words of the table run as the first instruction after reset. -/
theorem test_first_after_reset :
    fetch (State.reset.withFetchWord 72 0x00000001000000000) = some (.wbWrite 0 0 0) ∧
    fetch (State.reset.withFetchWord 40 0x0000000100) = some (.csrRead 0 0) := by decide

/-! ## Witnesses: every statement's hypotheses are met together -/

/-- The step of a fabric state, from the model's own lemma. -/
theorem stepped {s : State} (hc : configError s.cfg = none) (hb : s.bench = []) : ∃ t, step s = .next t :=
  ⟨_, step_eq_cycle hc hb⟩

theorem accepted : configError exampleConfig = none := by decide

/-- Both halves of the address range, every residue, and the last address. -/
theorem witness_NarrowStatements :
    (0 < 2 ^ 32 ∧ 0 % 4 = 0) ∧ (0xfffffffc < 2 ^ 32 ∧ 0xfffffffc % 4 = 0) ∧ (2 < 2 ^ 32 ∧ 2 % 4 ≠ 0) ∧
    (0 < 2 ^ 32 ∧ 0 % 2 = 0) ∧ (1 < 2 ^ 32 ∧ 1 % 2 = 1) ∧ (0xfffffffe < 2 ^ 32 ∧ 0xfffffffe % 2 = 0) ∧
    (0xffffffff < 2 ^ 32 ∧ 0xffffffff % 2 = 1) := by decide

/-- Each of the three clauses, at its boundary. -/
theorem witness_MalformedBytes :
    (([0, 0, 0, 0] : List Byte).length < packedBytes .csr) ∧
    (packedBytes .csr ≤ ([0, 0, 0, 0, 0x40] : List Byte).length ∧
      2 ^ packedWidth .csr ≤ bytesToNat (([0, 0, 0, 0, 0x40] : List Byte).take (packedBytes .csr))) ∧
    (packedBytes .csr ≤ ([255, 255, 255, 255, 0x3f] : List Byte).length ∧
      bytesToNat (([255, 255, 255, 255, 0x3f] : List Byte).take (packedBytes .csr)) < 2 ^ packedWidth .csr) ∧
    (([0, 0, 0, 0, 0, 0, 0, 0] : List Byte).length < packedBytes .main) ∧
    (packedBytes .main ≤ ([0, 0, 0, 0, 0, 0, 0, 0, 8] : List Byte).length ∧
      2 ^ packedWidth .main ≤ bytesToNat (([0, 0, 0, 0, 0, 0, 0, 0, 8] : List Byte).take (packedBytes .main))) ∧
    (packedBytes .main ≤ ([0, 0, 0, 0, 0, 0, 0, 0, 7] : List Byte).length ∧
      bytesToNat (([0, 0, 0, 0, 0, 0, 0, 0, 7] : List Byte).take (packedBytes .main)) < 2 ^ packedWidth .main) := by decide

theorem witness_RouteIsExactContainment :
    route exampleConfig.mainMap 0x100007ff = some (1, sramRegion) ∧
    route exampleConfig.mainMap 0x10000000 = some (1, sramRegion) ∧ route exampleConfig.mainMap 0x10000800 = none := by
  decide

/-- The first and the last address of a window, on each bus. -/
theorem witness_AcceptedMapServesNoAddressTwice :
    configError exampleConfig = none ∧ (exampleConfig.map .main)[1]? = some sramRegion ∧
    (sramRegion.base ≤ 0x10000000 ∧ 0x10000000 < sramRegion.base + sramRegion.size) ∧
    (sramRegion.base ≤ 0x100007ff ∧ 0x100007ff < sramRegion.base + sramRegion.size) ∧
    (exampleConfig.map .csr)[0]? = some gpioRegion ∧ gpioRegion.base ≤ 0x100001f ∧
    0x100001f < gpioRegion.base + gpioRegion.size := by decide

theorem witness_AddAccepts :
    addRegion false .main exampleConfig.mainMap (port32 0x800) "y" 0x10000800 =
      .ok (exampleConfig.mainMap ++ [newRegion (port32 0x800) "y" 0x10000800]) := by rfl

theorem witness_ClogIsTheLeastExponent : 0 ≤ 2 ^ 0 ∧ 1 ≤ 2 ^ 0 ∧ 5 ≤ 2 ^ 3 ∧ 0x800 ≤ 2 ^ 11 := by decide

/-- A started fabric; and each side of the last clause's equivalence. -/
theorem witness_RegistrationAfterStart :
    (granted rdSram []).started = true ∧
    (∃ t, step { State.reset with inputs := [quietInput] } = .next t ∧
      State.reset.started = false ∧ t.started = true) ∧
    (∃ t, step { State.reset with inputs := [{ quietInput with rst := true }] } = .next t ∧ t.started = false) :=
  ⟨by decide, ⟨_, step_eq_cycle accepted rfl, by decide, by decide⟩, ⟨_, step_eq_cycle accepted rfl, by decide⟩⟩

/-- The example sizes, the least and the greatest. -/
theorem witness_OpenSizes :
    openSizesOk exampleSizes = true ∧ openSizesOk { flash := 4, debug := 4, uart := 1, id := 1 } = true ∧
    openSizesOk { flash := 0x10000000, debug := 0x10000000, uart := 0x02000000, id := 0x04000000 } = true ∧
    exampleInitiators ≠ [] ∧ (∀ p ∈ exampleInitiators, p.dataWidth = 32 ∧ p.granularity = 8) := by decide

theorem witness_NoInitiator :
    let s := State.resetOf { exampleConfig with initiators := [] }
    s.cfg.initiators = [] ∧ regionsError .main [] s.cfg.mainMap = none ∧ regionsError .csr [] s.cfg.csrMap = none := by
  decide

theorem witness_RefusedConfiguration :
    configError (State.resetOf { exampleConfig with mainMap := [sramRegion, sramRegion] }).cfg =
      some (.duplicateName "sram") := by decide

/-- The ends of the unmapped ranges. -/
theorem witness_UnmappedRanges :
    [0x01000000, 0x0fffffff, 0x10000800, 0x9fffffff, 0xa0001000, 0xafffffff, 0xc0000000, 0xffffffff].all
      (fun a => route (hardwareMainMap exampleSizes) a == none) = true ∧
    [0, 0xffffff, 0x1000020, 0x1ffffff, 0x2000020, 0x3ffffff, 0x4000010, 0xfffffff].all
      (fun a => route (hardwareCsrMap exampleSizes) a == none) = true := by decide

theorem witness_SelectFollowsRoundRobin :
    (2 < 3 ∧ select 3 2 (among [0, 1]) = some 0) ∧ (1 < 3 ∧ select 3 1 (among [1]) = some 1) ∧
    (2 + 1 = 3 ∧ select 3 2 (among [1, 2]) = some 1) ∧ select 3 0 (among []) = none := by decide

theorem witness_RequesterIsGranted : 2 < 3 ∧ ∀ k : Nat, (fun (_ : Nat) (i : Nat) => decide (i < 3)) k 2 = true :=
  ⟨by decide, fun _ => rfl⟩

/-- No grant and somebody requests; no grant and nobody does; a grant with and without a completion. -/
theorem witness_GrantIsMadeAndReleased :
    (∃ t, step (waiting [quietLine, line rdSram]) = .next t ∧
      (waiting [quietLine, line rdSram]).input.rst = false ∧ (waiting [quietLine, line rdSram]).grant = none ∧
      t.grant = some 1) ∧
    (∃ t, step (waiting [quietLine, quietLine, quietLine]) = .next t ∧ t.grant = none) ∧
    (∃ t, step (granted rdSram [sramAnswers rdSram (okM 1)]) = .next t ∧ t.sig.decRsp.ack = true) ∧
    (∃ t, step (granted rdSram [sramAnswers rdSram noM]) = .next t ∧ t.sig.decRsp.ack = false ∧
      t.sig.decRsp.err = false) :=
  ⟨⟨_, step_eq_cycle accepted rfl, by decide, by decide, by decide⟩, ⟨_, step_eq_cycle accepted rfl, by decide⟩,
    ⟨_, step_eq_cycle accepted rfl, by decide⟩, ⟨_, step_eq_cycle accepted rfl, by decide, by decide⟩⟩

theorem witness_SharedBus :
    (granted rdSram []).bench = [] ∧ (granted rdSram []).grant = some 0 ∧ (waiting []).bench = [] ∧
    (waiting []).grant = none ∧ (∃ t, step (granted rdSram []) = .next t) ∧ ∃ t, step (waiting []) = .next t :=
  ⟨rfl, rfl, rfl, rfl, stepped accepted rfl, stepped accepted rfl⟩

theorem witness_OnlyTheGranted :
    (∃ t, step (granted rdSram []) = .next t) ∧ 0 < (granted rdSram []).cfg.n ∧ 2 < (granted rdSram []).cfg.n ∧
    (granted rdSram []).grant = some 0 ∧ (granted rdSram []).grant ≠ some 2 :=
  ⟨stepped accepted rfl, by decide, by decide, rfl, by decide⟩

/-- The first initiator granted, in this configuration. -/
theorem granted_shaped {s : State} (hc : s.cfg = exampleConfig) (hl : s.last = 0) (hg : s.grant = some 0)
    (hh : s.held.length = 3) : WellShaped s :=
  { last_lt := by rw [hc, hl]; decide
    grant_lt := by
      intro g h
      rw [hg] at h
      cases h
      rw [hc]
      decide
    held_len := by rw [hc, hh]; rfl }

theorem shaped_granted (w : Wreq) (inputs : List CycleInput) : WellShaped (granted w inputs) :=
  granted_shaped rfl rfl rfl rfl

theorem witness_IndicesStay : WellShaped (granted rdSram []) ∧ ∃ t, step (granted rdSram []) = .next t :=
  ⟨shaped_granted _ _, stepped accepted rfl⟩

/-- The first and the last word of a window, and the last word of the CsrBridge window. -/
theorem witness_Rebasing :
    route exampleConfig.mainMap (byteAddr 0x04000000) = some (1, sramRegion) ∧
    route exampleConfig.mainMap (byteAddr 0x040001ff) = some (1, sramRegion) ∧
    route exampleConfig.mainMap (byteAddr 0x2fffffff) = some (3, csrWindow) ∧
    route exampleConfig.csrMap (0x1000000#28).toNat = some (0, gpioRegion) ∧
    route exampleConfig.csrMap (0x100001f#28).toNat = some (0, gpioRegion) := by decide

/-- A driven and an undriven target port of each bus. -/
theorem witness_PortFields :
    (∃ t p p', step (granted rdSram [sramAnswers rdSram noM]) = .next t ∧ exampleConfig.mainMap[1]? = some sramRegion ∧
      t.sig.targets[1]? = some p ∧ t.sig.targets[0]? = some p' ∧ p.req = true ∧ p'.req = false) ∧
    (∃ t p p', step (inFlight rdGpio .busy 0 0 false noC) = .next t ∧ exampleConfig.csrMap[0]? = some gpioRegion ∧
      t.sig.csrTargets[0]? = some p ∧ t.sig.csrTargets[1]? = some p' ∧ p.req = true ∧ p'.req = false) :=
  ⟨⟨_, _, _, step_eq_cycle accepted rfl, rfl, rfl, rfl, by decide, by decide⟩,
    ⟨_, _, _, step_eq_cycle accepted rfl, rfl, rfl, rfl, by decide, by decide⟩⟩

/-- A request to a main-bus target, one to the CsrBridge, one to an unmapped address, and no request. -/
theorem witness_DecoderDrives :
    (∃ t, step (granted rdSram [sramAnswers rdSram noM]) = .next t ∧ t.sig.shared.req = true ∧
      route exampleConfig.mainMap (byteAddr t.sig.shared.q.adr) = some (1, sramRegion) ∧
      sramRegion.target = .external) ∧
    (∃ t, step (granted rdGpio [gpioAnswers rdGpio noC]) = .next t ∧ t.sig.shared.req = true ∧
      route exampleConfig.mainMap (byteAddr t.sig.shared.q.adr) = some (3, csrWindow) ∧ csrWindow.target = .bridge) ∧
    (∃ t, step (granted rdUnmapped [cyc (from0 rdUnmapped) [] []]) = .next t ∧ t.sig.shared.req = true ∧
      route exampleConfig.mainMap (byteAddr t.sig.shared.q.adr) = none) ∧
    (∃ t, step (waiting []) = .next t ∧ t.sig.shared.req = false) :=
  ⟨⟨_, step_eq_cycle accepted rfl, by decide, by decide, by decide⟩,
    ⟨_, step_eq_cycle accepted rfl, by decide, by decide, by decide⟩,
    ⟨_, step_eq_cycle accepted rfl, by decide, by decide⟩, ⟨_, step_eq_cycle accepted rfl, by decide⟩⟩

/-- The selected target's entry agrees, another one's differs. -/
theorem witness_UnselectedMainTargets :
    let s := granted rdSram [sramAnswers rdSram noM]
    s.bench = [] ∧ s.inputs = sramAnswers rdSram noM :: [] ∧
    (∀ k r, decoderRoute s.cfg (sharedBus s) = some (k, r) → r.target = .external →
      ([okM 7, noM, okM 9] : List BusRsp)[k]? = (sramAnswers rdSram noM).main[k]?) ∧
    ([okM 7, noM, okM 9] : List BusRsp) ≠ (sramAnswers rdSram noM).main := by
  have hr : decoderRoute exampleConfig (sharedBus (granted rdSram [sramAnswers rdSram noM])) = some (1, sramRegion) := by
    decide
  refine ⟨rfl, rfl, ?_, by decide⟩
  intro k r h _
  have e : some (k, r) = some (1, sramRegion) := h.symm.trans hr
  cases e
  decide

/-- Both cycles of an unmapped request. -/
theorem witness_UnmappedRequest :
    let s := granted rdUnmapped [cyc (from0 rdUnmapped) [] []]
    let s' := { granted rdUnmapped [cyc (from0 rdUnmapped) [] []] with decErr := true }
    (s.input.rst = false ∧ s.grant = some 0 ∧ 0 < s.cfg.n ∧ route s.cfg.mainMap (byteAddr 0x08000000) = none ∧
      s.decErr = false) ∧
    (s'.input.rst = false ∧ s'.grant = some 0 ∧ 0 < s'.cfg.n ∧ route s'.cfg.mainMap (byteAddr 0x08000000) = none ∧
      s'.decErr = true) := by decide

/-- A read or a write of `sram`, answered `ok` or with an error. -/
theorem witness_MappedTargetCompletes :
    let s := granted rdSram [sramAnswers rdSram (okM 1)]
    let s' := granted wrSram [sramAnswers wrSram { noM with err := true }]
    (s.input.rst = false ∧ s.grant = some 0 ∧ 0 < s.cfg.n ∧
      route s.cfg.mainMap (byteAddr 0x04000040) = some (1, sramRegion) ∧ sramRegion.target = .external ∧
      s.input.main[1]? = some (okM 1) ∧ (okM 1).ack = true) ∧
    (s'.input.rst = false ∧ s'.grant = some 0 ∧ 0 < s'.cfg.n ∧
      route s'.cfg.mainMap (byteAddr 0x04000040) = some (1, sramRegion) ∧ sramRegion.target = .external ∧
      s'.input.main[1]? = some { noM with err := true }) := by decide

/-- A main-bus kind's frame: the CsrBridge `Idle` and the request routed elsewhere, another initiator holding. -/
theorem witness_MainBusKindsFrame :
    let s := { granted rdSram [sramAnswers rdSram noM] with held := [some rdSram, some wrSram, none] }
    (∃ t, exec (.wbRead 0x04000040 0xf 0) s = .next t) ∧ (∃ t, exec (.wbWrite 0x04000040 0xf 1) s = .next t) ∧
    s.input.rst = false ∧ s.br.phase = .idle ∧
    (∀ k r, route s.cfg.mainMap (byteAddr 0x04000040) = some (k, r) → r.target = .external) ∧
    1 < s.cfg.n ∧ heldBy s.held 1 = some wrSram ∧ s.grant ≠ some 1 := by
  have hr : route exampleConfig.mainMap (byteAddr 0x04000040) = some (1, sramRegion) := by decide
  refine ⟨⟨_, rfl⟩, ⟨_, rfl⟩, by decide, by decide, ?_, by decide, by decide, by decide⟩
  intro k r h
  have e : some (k, r) = some (1, sramRegion) := h.symm.trans hr
  cases e
  decide

theorem witness_BridgeAccepts :
    let s := granted wrGpio [gpioAnswers wrGpio noC]
    (s.input.rst = false ∧ s.grant = some 0 ∧ 0 < s.cfg.n ∧ s.br.phase = .idle ∧
      route s.cfg.mainMap (byteAddr 0x2c400001) = some (3, csrWindow) ∧ csrWindow.target = .bridge) ∧
    (∃ t, step (waiting []) = .next t ∧ (waiting []).input.rst = false ∧ (waiting []).br.phase = .idle ∧
      t.sig.bridgeIn.req = false) :=
  ⟨by decide, ⟨_, step_eq_cycle accepted rfl, by decide, by decide, by decide⟩⟩

/-- Each phase of the CsrBridge. -/
theorem witness_BridgePhases :
    (∃ t, step (inFlight wrGpio .idle 0 0 false noC) = .next t) ∧
    (∃ t, step (inFlight wrGpio .busy 3 0 false noC) = .next t) ∧
    (∃ t, step (inFlight wrGpio .done 3 0 false noC) = .next t) :=
  ⟨stepped accepted rfl, stepped accepted rfl, stepped accepted rfl⟩

/-- An error, no completion, an acknowledged beat that is not the last, and the last; a read and a write. -/
theorem witness_BeatCompletion :
    (∃ t, step (inFlight wrGpio .busy 0 0 false errC) = .next t ∧ t.sig.csrRsp.err = true) ∧
    (∃ t, step (inFlight wrGpio .busy 0 0 false noC) = .next t ∧ t.sig.csrRsp.err = false ∧ t.sig.csrRsp.ack = false) ∧
    (∃ t, step (inFlight rdGpio .busy 2 0 false (okC 1)) = .next t ∧ t.sig.csrRsp.err = false ∧
      t.sig.csrRsp.ack = true) ∧
    (∃ t, step (inFlight wrGpio .busy 3 0 false (okC 1)) = .next t ∧ t.sig.csrRsp.err = false ∧
      t.sig.csrRsp.ack = true) ∧
    (inFlight rdGpio .busy 2 0 false (okC 1)).br.we = false ∧ (inFlight wrGpio .busy 3 0 false (okC 1)).br.we = true ∧
    (inFlight wrGpio .busy 3 0 false (okC 1)).input.rst = false :=
  ⟨⟨_, step_eq_cycle accepted rfl, by decide⟩, ⟨_, step_eq_cycle accepted rfl, by decide, by decide⟩,
    ⟨_, step_eq_cycle accepted rfl, by decide, by decide⟩, ⟨_, step_eq_cycle accepted rfl, by decide, by decide⟩,
    by decide, by decide, by decide⟩

/-- A completed read, an aborted read and a write in `Done`. -/
theorem witness_AggregateResponse :
    let s := inFlight rdGpio .done 3 0x44332211 false noC
    let s' := inFlight rdGpio .done 2 0xa55a true noC
    (s.input.rst = false ∧ s.grant = some 0 ∧ 0 < s.cfg.n ∧ s.br.phase = .done ∧
      route s.cfg.mainMap (byteAddr 0x2c400001) = some (3, csrWindow) ∧ csrWindow.target = .bridge ∧
      s.br.we = false ∧ s.br.err = false) ∧
    (s'.input.rst = false ∧ s'.grant = some 0 ∧ 0 < s'.cfg.n ∧ s'.br.phase = .done ∧
      route s'.cfg.mainMap (byteAddr 0x2c400001) = some (3, csrWindow) ∧ s'.br.we = false ∧ s'.br.err = true) ∧
    (inFlight wrGpio .done 3 0 false noC).br.we = true := by decide

/-- Six cycles of a wide read of `gpio` byte 4. -/
def wideSchedule : List CycleInput :=
  [gpioAnswers rdGpio noC, gpioAnswers rdGpio (okC 0x11), gpioAnswers rdGpio (okC 0x22), gpioAnswers rdGpio (okC 0x33),
    gpioAnswers rdGpio (okC 0x44), gpioAnswers rdGpio noC]

theorem wideStart_rdGpio (inputs : List CycleInput) : WideStart (granted rdGpio inputs) 0 rdGpio 0x400001 :=
  ⟨accepted, rfl, rfl, (by decide : 0 < exampleConfig.n), rfl, 3, csrWindow, (by decide : route exampleConfig.mainMap
    (byteAddr (BusReq.unpack rdGpio).adr) = some (3, csrWindow)), rfl, by decide⟩

/-- `gpio` answers every beat of the word. -/
theorem gpio_answers (k : BeatIndex) (we : Bool) (sel : Lanes) (d : Word) (w : Wreq) (a : BeatRsp) :
    AnswersBeat exampleConfig (beatOf 0x400001 we sel d k) a (gpioAnswers w a) := by
  refine ⟨0, gpioRegion, ?_, rfl⟩
  have h : ∀ k : BeatIndex, route exampleConfig.csrMap (beatAddr 0x400001 k).toNat = some (0, gpioRegion) := by decide
  exact h k

theorem witness_WideRead :
    WideStart (granted rdGpio wideSchedule) 0 rdGpio 0x400001 ∧ (BusReq.unpack rdGpio).we = false ∧
    (∀ inp ∈ wideSchedule, Drives 0 rdGpio inp) ∧
    (∀ a ∈ [okC 0x11, okC 0x22, okC 0x33, okC 0x44], a.ack = true ∧ a.err = false) ∧
    AnswersBeat exampleConfig (beatOf 0x400001 false 0 0 0) (okC 0x11) (gpioAnswers rdGpio (okC 0x11)) ∧
    AnswersBeat exampleConfig (beatOf 0x400001 false 0 0 1) (okC 0x22) (gpioAnswers rdGpio (okC 0x22)) ∧
    AnswersBeat exampleConfig (beatOf 0x400001 false 0 0 2) (okC 0x33) (gpioAnswers rdGpio (okC 0x33)) ∧
    AnswersBeat exampleConfig (beatOf 0x400001 false 0 0 3) (okC 0x44) (gpioAnswers rdGpio (okC 0x44)) :=
  ⟨wideStart_rdGpio _, by decide, by unfold Drives; decide, by decide, gpio_answers _ _ _ _ _ _,
    gpio_answers _ _ _ _ _ _, gpio_answers _ _ _ _ _ _, gpio_answers _ _ _ _ _ _⟩

/-- A sub-bus that acknowledges `n` beats and then answers with an error. -/
def failsAfter (n : Nat) (_ : BeatReq) : BeatRsp × Nat := if n = 0 then (errC, 0) else (okC 0x5a, n - 1)

/-- `gpio` answers a beat in its first cycle. -/
theorem gpio_takes (k : BeatIndex) (we : Bool) (sel : Lanes) (d : Word) (w : Wreq) (a : BeatRsp) :
    TakesBeat exampleConfig (beatOf 0x400001 we sel d k) a [gpioAnswers w a] :=
  .inl ⟨[], gpioAnswers w a, rfl, by simp, gpio_answers _ _ _ _ _ _⟩

/-- A wide transaction with an error at beat 1 after a wait state, one without either, and one whose first beat is
unmapped. -/
theorem witness_WideCyclesRefine :
    Served exampleConfig failsAfter 1
      (wideBeats 0x400001 (BusReq.unpack rdGpio).we (BusReq.unpack rdGpio).sel (BusReq.unpack rdGpio).datW)
      [1, 2] [gpioAnswers rdGpio (okC 0x5a), gpioAnswers rdGpio noC, gpioAnswers rdGpio errC] ∧
    Served exampleConfig failsAfter 4
      (wideBeats 0x400001 (BusReq.unpack rdGpio).we (BusReq.unpack rdGpio).sel (BusReq.unpack rdGpio).datW)
      [1, 1, 1, 1] (List.replicate 4 (gpioAnswers rdGpio (okC 0x5a))) ∧
    Served exampleConfig (fun (_ : Nat) (_ : BeatReq) => (synthesizedBeatError, 0)) 0 (wideBeats 0 false 0xf 0)
      [2] [gpioAnswers rdGpio noC, gpioAnswers rdGpio noC] ∧
    (∀ inp ∈ [gpioAnswers rdGpio (okC 0x5a), gpioAnswers rdGpio noC, gpioAnswers rdGpio errC], Drives 0 rdGpio inp) ∧
    Drives 0 rdGpio (gpioAnswers rdGpio noC) ∧ ∀ inputs, WideStart (granted rdGpio inputs) 0 rdGpio 0x400001 :=
  ⟨⟨by decide, gpio_takes _ _ _ _ _ _, rfl, by decide,
      .inl ⟨[gpioAnswers rdGpio noC], gpioAnswers rdGpio errC, rfl, by
        intro inp h
        cases List.mem_singleton.1 h
        exact ⟨0, gpio_answers _ _ _ _ _ _⟩, gpio_answers _ _ _ _ _ _⟩, rfl, rfl⟩,
    ⟨by decide, gpio_takes _ _ _ _ _ _, rfl, by decide, gpio_takes _ _ _ _ _ _, rfl, by decide,
      gpio_takes _ _ _ _ _ _, rfl, by decide, gpio_takes _ _ _ _ _ _, rfl, rfl, rfl⟩,
    ⟨by decide, .inr ⟨by decide, rfl, rfl⟩, rfl, rfl⟩,
    by unfold Drives; decide, by unfold Drives; decide, wideStart_rdGpio⟩

/-- A storage target. -/
def store (m : Storage) (q : BeatReq) : BeatRsp × Storage :=
  (okC (storageRead m q.adr.toNat), if q.we && q.select then storageWrite m q.adr.toNat q.datW else m)

theorem witness_WideWriteReadsBack :
    StorageTarget store ∧ storageWf [] = true ∧ storageWf [(0x1000004, 0x11), (0x1000005, 0x22)] = true := by
  refine ⟨?_, by decide, by decide⟩
  intro m q
  refine ⟨rfl, rfl, ?_, ?_⟩
  · intro h
    simp [store, okC, h]
  · intro h
    simp [store, h]

theorem witness_IdleBridge :
    let s := granted rdGpio [gpioAnswers rdGpio noC]
    s.bench = [] ∧ s.br.phase = .idle ∧ (latched wrGpio .idle 2 7 true).phase = .idle ∧ (∃ t, step s = .next t) ∧
    (∃ t, step { s with br := latched wrGpio .idle 2 7 true } = .next t) ∧
    (idleCycle s).sig.bridgeIn.req = true :=
  ⟨rfl, rfl, rfl, stepped accepted rfl, stepped accepted rfl, by decide⟩

/-- A beat to `gpio`, a beat to an unmapped address, and no beat. -/
theorem witness_CsrDecoderDrives :
    (∃ t, step (inFlight rdGpio .busy 0 0 false noC) = .next t ∧ t.sig.beat.req = true ∧
      route exampleConfig.csrMap t.sig.beat.q.adr.toNat = some (0, gpioRegion)) ∧
    (∃ t, step { inFlight rdGpio .busy 0 0 false noC with br := { latched rdGpio .busy 0 0 false with adr := 0 } } =
        .next t ∧ t.sig.beat.req = true ∧ route exampleConfig.csrMap t.sig.beat.q.adr.toNat = none) ∧
    (∃ t, step (waiting []) = .next t ∧ t.sig.beat.req = false) :=
  ⟨⟨_, step_eq_cycle accepted rfl, by decide, by decide⟩, ⟨_, step_eq_cycle accepted rfl, by decide, by decide⟩,
    ⟨_, step_eq_cycle accepted rfl, by decide⟩⟩

theorem witness_UnselectedCsrTargets :
    let s := inFlight rdGpio .busy 0 0 false noC
    s.bench = [] ∧ s.inputs = gpioAnswers rdGpio noC :: [] ∧
    (∀ u r, csrRoute s.cfg (csrBus s) = some (u, r) →
      ([noC, okC 1] : List BeatRsp)[u]? = (gpioAnswers rdGpio noC).csr[u]?) ∧
    ([noC, okC 1] : List BeatRsp) ≠ (gpioAnswers rdGpio noC).csr := by
  have hr : csrRoute exampleConfig (csrBus (inFlight rdGpio .busy 0 0 false noC)) = some (0, gpioRegion) := by decide
  refine ⟨rfl, rfl, ?_, by decide⟩
  intro u r h
  have e : some (u, r) = some (0, gpioRegion) := h.symm.trans hr
  cases e
  decide

/-- Both cycles of an unmapped beat, the CsrBridge `Busy`. -/
theorem witness_UnmappedBeat :
    let s := inFlight rdGpio .busy 0 0 false noC
    let s' := { inFlight rdGpio .busy 0 0 false noC with csrErr := true }
    (s.input.rst = false ∧ route s.cfg.csrMap (0x1000020#28).toNat = none ∧ s.csrErr = false) ∧
    (s'.input.rst = false ∧ route s'.cfg.csrMap (0x1000020#28).toNat = none ∧ s'.csrErr = true ∧
      s'.br.phase = .busy) := by decide

/-- A beat of each kind to `gpio`, answered `ok`; and one answered with an error. -/
theorem witness_CsrKindsComplete :
    let s := inFlight rdGpio .busy 0 0 false (okC 0x11)
    let s' := inFlight rdGpio .busy 0 0 false errC
    (s.input.rst = false ∧ route s.cfg.csrMap (0x1000004#28).toNat = some (0, gpioRegion) ∧
      s.input.csr[0]? = some (okC 0x11) ∧ (okC 0x11).ack = true) ∧
    (s'.input.rst = false ∧ route s'.cfg.csrMap (0x100001f#28).toNat = some (0, gpioRegion) ∧
      s'.input.csr[0]? = some errC ∧ errC.err = true) := by decide

theorem witness_CsrKindsFrame :
    let s := { inFlight rdGpio .busy 1 0x11 false (okC 0x22) with held := [some rdGpio, some wrSram, none] }
    (∃ t, exec (.csrRead 0x1000005 0) s = .next t) ∧ (∃ t, exec (.csrWrite 0x1000005 0) s = .next t) ∧
    (∃ t, exec (.csrWriteNosel 0x1000005 0) s = .next t) ∧ s.input.rst = false ∧ s.grant = some 0 ∧
    s.br.phase ≠ .idle ∧ 2 ≠ s.br.k.toNat ∧ 1 < s.cfg.n ∧ heldBy s.held 1 = some wrSram ∧ s.grant ≠ some 1 :=
  ⟨⟨_, rfl⟩, ⟨_, rfl⟩, ⟨_, rfl⟩, by decide, by decide, by decide, by decide, by decide, by decide, by decide⟩

/-- A granted request outside `Busy`, a `Busy` cycle (which also meets BothBusesDescribeOneCycle), and neither. -/
theorem witness_StepRuns :
    let s := granted rdSram [sramAnswers rdSram noM]
    let s' := inFlight rdGpio .busy 0 0 false noC
    (configError s.cfg = none ∧ s.bench = [] ∧ s.br.phase ≠ .busy ∧ s.grant = some 0 ∧
      (requestLine s.draw s.input 0).req = true) ∧
    (configError s'.cfg = none ∧ s'.bench = [] ∧ s'.br.phase = .busy ∧ s'.grant = some 0 ∧
      (requestLine s'.draw s'.input 0).req = true) ∧
    (configError (waiting []).cfg = none ∧ (waiting []).br.phase ≠ .busy ∧
      (sharedBus (waiting [])).req = false) := by decide

theorem witness_PlacedWordRuns :
    configError State.reset.cfg = none ∧ decodeTableWord 72 0x08000080f00000000 = some (.wbRead 0x04000040 0xf 0) ∧
    decodeTableWord 40 0x04000013dd = some (.csrWrite 0x1000004 0xdd) := by decide

theorem witness_ResetState :
    exampleConfig.n ≠ 0 ∧ 1 < exampleConfig.n ∧ among [1, 2] 1 = true ∧ ∀ j, j < 1 → among [1, 2] j = false := by decide

theorem witness_ResetEdge :
    let s := { inFlight wrGpio .busy 1 0 false (okC 0) with inputs := [{ gpioAnswers wrGpio (okC 0) with rst := true }] }
    (∃ t, step s = .next t) ∧ s.input.rst = true :=
  ⟨stepped accepted rfl, by decide⟩

/-- A state in the middle of a wide read meets the invariant. -/
theorem inv_inFlight (phase : BrPhase) (k : BeatIndex) (err csrErr : Bool) (a : BeatRsp)
    (h : csrErr = false) (hd : phase = .done → err = false → k = 3) :
    FabricInv { inFlight rdGpio phase k 0 err a with csrErr := csrErr } :=
  { shaped := granted_shaped rfl rfl rfl rfl
    no_bench := rfl
    grant_held := by intro g hg; cases hg; rfl
    bridge_busy := fun _ => ⟨0, rdGpio, 3, csrWindow, rfl, rfl,
      (by decide : route exampleConfig.mainMap (byteAddr (BusReq.unpack rdGpio).adr) = some (3, csrWindow)), rfl⟩
    dec_due := by intro hc; cases hc
    csr_due := by intro hc; subst h; cases hc
    all_beats := hd }

/-- An unmapped request in its second cycle. -/
theorem inv_unmapped : FabricInv { granted rdUnmapped [cyc (from0 rdUnmapped) [] []] with decErr := true } :=
  { shaped := granted_shaped rfl rfl rfl rfl
    no_bench := rfl
    grant_held := by intro g hg; cases hg; rfl
    bridge_busy := by intro hp; exact absurd rfl hp
    dec_due := fun _ => ⟨0, rdUnmapped, rfl, rfl,
      (by decide : route exampleConfig.mainMap (byteAddr (BusReq.unpack rdUnmapped).adr) = none)⟩
    csr_due := by intro hc; cases hc
    all_beats := by intro hp; cases hp }

/-- A wide read of an unmapped CSR word, its first beat in its second cycle. -/
theorem inv_unmappedBeat :
    FabricInv { granted 0x58000000f00000000 [cyc (from0 0x58000000f00000000) [] []] with
      csrErr := true
      br := { phase := .busy, k := 0, adr := 0, we := false, dat := 0, sel := 0xf, rbuf := 0, err := false } } :=
  { shaped := granted_shaped rfl rfl rfl rfl
    no_bench := rfl
    grant_held := by intro g hg; cases hg; rfl
    bridge_busy := fun _ => ⟨0, 0x58000000f00000000, 3, csrWindow, rfl, rfl,
      (by decide : route exampleConfig.mainMap (byteAddr (BusReq.unpack 0x58000000f00000000).adr) = some (3, csrWindow)), rfl⟩
    dec_due := by intro hc; cases hc
    csr_due := fun _ => ⟨rfl, (by decide : route exampleConfig.csrMap (beatAddr 0 0).toNat = none)⟩
    all_beats := by intro hp; cases hp }

theorem witness_FabricInvariant :
    (∃ s t, FabricInv s ∧ step s = .next t ∧ Faultless t ∧ s.br.phase = .busy) ∧
    configError exampleConfig = none :=
  ⟨⟨{ inFlight rdGpio .busy 1 0 false (okC 1) with csrErr := false }, _, inv_inFlight _ _ _ _ _ rfl (by intro h; cases h),
    step_eq_cycle accepted rfl, (by decide : (idleCycle (inFlight rdGpio .busy 1 0 false (okC 1))).faults = []), rfl⟩,
    accepted⟩

/-- Each clause: an error due on the main bus, and one on the CSR sub-bus. -/
theorem witness_NoTargetWhileErrorDue :
    (∃ s t, FabricInv s ∧ step s = .next t ∧ Faultless t ∧ s.input.rst = false ∧ s.decErr = true) ∧
    (∃ s t, FabricInv s ∧ step s = .next t ∧ Faultless t ∧ s.input.rst = false ∧ s.csrErr = true) :=
  ⟨⟨_, _, inv_unmapped, step_eq_cycle accepted rfl, (by decide : (idleCycle
      { granted rdUnmapped [cyc (from0 rdUnmapped) [] []] with decErr := true }).faults = []), by decide, rfl⟩,
    ⟨_, _, inv_unmappedBeat, step_eq_cycle accepted rfl, (by decide : (idleCycle
      { granted 0x58000000f00000000 [cyc (from0 0x58000000f00000000) [] []] with
        csrErr := true
        br := { phase := .busy, k := 0, adr := 0, we := false, dat := 0, sel := 0xf, rbuf := 0, err := false }
      }).faults = []), by decide, rfl⟩⟩

/-- A held request kept, a held request broken, a new request, and no request. -/
theorem witness_HoldDuty :
    let s := { granted rdSram [cyc [line rdSram, quietLine, line wrSram] [] []] with held := [some rdSram, some wrSram, none] }
    (∃ t, step s = .next t) ∧ s.input.rst = false ∧ 2 < s.cfg.n ∧ heldBy s.held 0 = some rdSram ∧
    (requestLine s.draw s.input 0).word = rdSram ∧ heldBy s.held 1 = some wrSram ∧
    (requestLine s.draw s.input 1).req = false ∧ heldBy s.held 2 = none ∧ (requestLine s.draw s.input 2).req = true ∧
    (requestLine (waiting from0Quiet).draw (waiting from0Quiet).input 0).req = false :=
  ⟨stepped accepted rfl, by decide, by decide, by decide, by decide, by decide, by decide, by decide, by decide, by decide⟩

/-- A step with recorded faults, from which FaultsOnlyGrow and ConfigurationNeverChanges speak. -/
theorem witness_FaultsOnlyGrow :
    let s := { granted rdSram [sramAnswers rdSram noM] with faults := [.initiatorProtocol 1 2] }
    (∃ t, step s = .next t) ∧ Fault.initiatorProtocol 1 2 ∈ s.faults :=
  ⟨stepped accepted rfl, by decide⟩

theorem witness_SilentTarget :
    let pre := List.replicate 5 (sramAnswers rdSram noM)
    let s := granted rdSram (pre ++ [sramAnswers rdSram (okM 1)])
    configError s.cfg = none ∧ s.bench = [] ∧ s.grant = some 0 ∧ routeOf s rdSram = some (1, sramRegion) ∧
    sramRegion.target = .external ∧ s.inputs = pre ++ [sramAnswers rdSram (okM 1)] ∧
    (∀ inp ∈ pre, Drives 0 rdSram inp ∧ Silent 1 inp) := by
  refine ⟨accepted, rfl, rfl, by decide, rfl, rfl, ?_⟩
  intro inp h
  have e := List.eq_of_mem_replicate h
  subst e
  exact ⟨by unfold Drives; decide, ⟨0, by decide⟩⟩

theorem witness_Quiescent :
    configError (waiting from0Quiet).cfg = none ∧ (waiting from0Quiet).bench = [] ∧ Quiescent (waiting from0Quiet) ∧
    (waiting from0Quiet).input.rst = false := by
  refine ⟨accepted, rfl, ⟨⟨rfl, rfl, rfl, rfl, ?_⟩, ?_⟩, rfl⟩
  · intro i
    have h : ∀ n i : Nat, heldBy (List.replicate n none) i = none := by
      intro n i
      simp only [heldBy, List.getD_eq_getElem?_getD, List.getElem?_replicate]
      split <;> rfl
    exact h 3 i
  · decide

/-- A program that has ended: nothing is left to do and nobody requests. -/
theorem witness_TraceFinished :
    let d : Driver := { todo := [], out := none, wait := 0 }
    let r : TraceRun := { state := waiting from0Quiet, drivers := [d, d, d], program := [d, d, d], cycle := 4 }
    configError r.state.cfg = none ∧ r.state.bench = [] ∧ r.state.input.rst = false ∧ TraceFinished r := by
  refine ⟨accepted, rfl, rfl, by decide, ⟨⟨rfl, rfl, rfl, rfl, witness_Quiescent.2.2.1.1.2.2.2.2⟩, ?_⟩, rfl⟩
  decide

/-- A wide read's `Done` cycle, and an unmapped request's second cycle. -/
theorem witness_CompletionLeavesNoTrace :
    (∃ s t, FabricInv s ∧ step s = .next t ∧ Faultless t ∧ s.input.rst = false ∧ s.grant = some 0 ∧
      t.sig.decRsp.ack = true ∧ s.br.phase = .done) ∧
    (∃ s t, FabricInv s ∧ step s = .next t ∧ Faultless t ∧ s.input.rst = false ∧ s.grant = some 0 ∧
      t.sig.decRsp.err = true) :=
  ⟨⟨{ inFlight rdGpio .done 3 0 false noC with csrErr := false }, _,
    inv_inFlight _ _ _ _ _ rfl (by intro _ _; rfl), step_eq_cycle accepted rfl,
      (by decide : (idleCycle (inFlight rdGpio .done 3 0 false noC)).faults = []), by decide, rfl, by decide, rfl⟩,
    ⟨_, _, inv_unmapped, step_eq_cycle accepted rfl, (by decide : (idleCycle
      { granted rdUnmapped [cyc (from0 rdUnmapped) [] []] with decErr := true }).faults = []), by decide, rfl,
      by decide⟩⟩

end Sys2Proof.Tests
end

section
/-! The scope (00_scope.md): `clog2` as the least exponent, and the transaction kind a step runs. -/

namespace Sys2Proof.Machine

/-! `clog2` -/

/-- `clog2` is the lower adjoint of `2 ^ ·` (00_scope.md R12). -/
theorem clog2_le_iff (s k : Nat) : clog2 s ≤ k ↔ s ≤ 2 ^ k := by
  unfold clog2
  split
  case isTrue hs =>
    have hpos : 1 ≤ 2 ^ k := Nat.one_le_two_pow
    omega
  case isFalse hs =>
    have hlog : Nat.log2 (s - 1) < k ↔ s - 1 < 2 ^ k := Nat.log2_lt (by omega)
    omega

/-- Settles O10: both halves are the adjunction `clog2_le_iff`, the first at `k = clog2 s`. -/
theorem clogIsTheLeastExponent : Obligations.ClogIsTheLeastExponent := by
  intro s
  exact ⟨(clog2_le_iff s _).1 le_rfl, fun k => (clog2_le_iff s k).2⟩

/-! What a cycle fetches -/

theorem sharedPacket_of_request {s : State} {g : Nat} (hg : s.grant = some g)
    (hr : (requestLine s.draw s.input g).req = true) :
    sharedPacket s = some (.wreq (requestLine s.draw s.input g).word) := by
  simp [sharedPacket, hg, hr]

theorem fabricPacket_of_not_busy {s : State} (hp : s.br.phase ≠ .busy) : fabricPacket s = sharedPacket s := by
  cases h : s.br.phase with
  | busy => exact absurd h hp
  | idle => simp [fabricPacket, h]
  | done => simp [fabricPacket, h]

theorem fabricPacket_of_busy {s : State} (hp : s.br.phase = .busy) :
    fabricPacket s = some (.creq (csrBus s).q.pack) := by
  simp [fabricPacket, hp]

/-- Without a bench a cycle fetches what the fabric runs (45_fabric_step.md R299 c). -/
theorem fetch_of_no_bench {s : State} (hb : s.bench = []) : fetch s = (fabricPacket s).map decodePacket := by
  simp [fetch, fetchPacket, hb]

/-- In an accepted configuration a step is the meaning of the transaction kind fetched. -/
theorem step_of_fetch {s : State} {i : Instr} (hc : configError s.cfg = none) (hf : fetch s = some i) :
    step s = exec i (takeBench s) := by
  simp [step, hc, hf]

/-- Without a bench a step is the meaning of the packed request the fabric runs. -/
theorem step_of_fabricPacket {s : State} {p : Packet} (hc : configError s.cfg = none) (hb : s.bench = [])
    (hp : fabricPacket s = some p) : step s = exec (decodePacket p) s := by
  have hf : fetch s = some (decodePacket p) := by rw [fetch_of_no_bench hb, hp, Option.map_some]
  rw [step_of_fetch hc hf, takeBench_nil hb]

/-- Settles O47: by the packed request the fabric runs in each phase of the CsrBridge; that a cycle without one is the
fabric's idle cycle is an instance of `step_eq_cycle`. -/
theorem stepRunsTheFetchedTransaction : Obligations.StepRunsTheFetchedTransaction := by
  intro s hc hb
  refine ⟨fun g hp hg hr => ?_, fun hp => ?_, fun _ _ => step_eq_cycle hc hb⟩
  · have hpacket : fabricPacket s = some (.wreq (requestLine s.draw s.input g).word) :=
      (fabricPacket_of_not_busy hp).trans (sharedPacket_of_request hg hr)
    exact step_of_fabricPacket hc hb hpacket
  · exact step_of_fabricPacket hc hb (fabricPacket_of_busy hp)

end Sys2Proof.Machine
end

section
/-! The state (10_state.md): what a cycle leaves unchanged, and the invariants R46 of the fabric. -/

namespace Sys2Proof.Machine

/-! Lanes of a word -/

/-- The bits of a lane (20_memory.md R67). -/
theorem lane_getLsbD (w : Word) (j i : Nat) : (lane w j).getLsbD i = (decide (i < 8) && w.getLsbD (8 * j + i)) := by
  simp [lane]

/-- Replacing lane `k` changes no bit outside it. -/
theorem setLane_getLsbD_outside (w : Word) {k i : Nat} (b : Byte) (h : i < 8 * k ∨ 8 * k + 8 ≤ i) :
    (setLane w k b).getLsbD i = w.getLsbD i := by
  have hmask : (0xff#32 <<< (8 * k)).getLsbD i = false := by
    rw [BitVec.getLsbD_shiftLeft]
    rcases h with h | h
    · simp [h]
    · have hlane : (0xff#32).getLsbD (i - 8 * k) = false := by
        rw [BitVec.getLsbD_ofNat, show (0xff : Nat) = 2 ^ 8 - 1 from rfl, Nat.testBit_two_pow_sub_one]
        simp
        omega
      simp [hlane]
  have hbyte : (b.setWidth 32 <<< (8 * k)).getLsbD i = false := by
    rw [BitVec.getLsbD_shiftLeft]
    rcases h with h | h
    · simp [h]
    · simp [BitVec.getLsbD_of_ge b (i - 8 * k) (by omega)]
  by_cases hi : i < 32
  · rw [setLane, BitVec.getLsbD_or, BitVec.getLsbD_and, BitVec.getLsbD_not, hmask, hbyte]
    simp [hi]
  · rw [BitVec.getLsbD_of_ge _ i (by omega), BitVec.getLsbD_of_ge _ i (by omega)]

/-- Replacing a lane leaves the others as they were (10_state.md R42). -/
theorem lane_setLane_other (w : Word) {j k : Nat} (b : Byte) (h : j ≠ k) : lane (setLane w k b) j = lane w j := by
  apply BitVec.eq_of_getLsbD_eq
  intro i hi
  rw [lane_getLsbD, lane_getLsbD, setLane_getLsbD_outside w b (by omega)]

/-! What an edge leaves in the CsrBridge -/

/-- A beat's completion touches neither the latched request nor, outside the beat's lane of a read, the buffer. -/
theorem bridgeBeatEdge_frame (b : Bridge) (rsp : BeatRsp) :
    (bridgeBeatEdge b rsp).adr = b.adr ∧ (bridgeBeatEdge b rsp).we = b.we ∧ (bridgeBeatEdge b rsp).dat = b.dat ∧
      (bridgeBeatEdge b rsp).sel = b.sel ∧ (b.we = true → (bridgeBeatEdge b rsp).rbuf = b.rbuf) ∧
      ∀ j, j ≠ b.k.toNat → lane (bridgeBeatEdge b rsp).rbuf j = lane b.rbuf j := by
  unfold bridgeBeatEdge
  split
  case isTrue => simp
  case isFalse =>
    split
    case isFalse => simp
    case isTrue =>
      refine ⟨rfl, rfl, rfl, rfl, fun hw => if_pos hw, fun j hj => ?_⟩
      cases hw : b.we with
      | true => simp
      | false => simpa using lane_setLane_other b.rbuf rsp.datR hj

/-- The latched request of a wide transaction stands until the transaction ends (10_state.md R40, R41). -/
theorem bridgeNext_latched {b : Bridge} (bin : BridgePort) (rsp : BeatRsp) (h : b.phase ≠ .idle) :
    (bridgeNext b bin rsp).adr = b.adr ∧ (bridgeNext b bin rsp).we = b.we ∧ (bridgeNext b bin rsp).dat = b.dat ∧
      (bridgeNext b bin rsp).sel = b.sel := by
  rcases bridgeNext_cases b bin rsp with ⟨hp, -, -⟩ | ⟨hp, -, -⟩ | ⟨-, e⟩ | ⟨-, e⟩
  · exact absurd hp h
  · exact absurd hp h
  · obtain ⟨hadr, hwe, hdat, hsel, -⟩ := bridgeBeatEdge_frame b rsp
    rw [e]
    exact ⟨hadr, hwe, hdat, hsel⟩
  · rw [e]
    exact ⟨rfl, rfl, rfl, rfl⟩

/-- Outside `Busy` no beat completes, and the buffer is kept (10_state.md R42). -/
theorem bridgeNext_rbuf_of_not_busy {b : Bridge} (bin : BridgePort) (rsp : BeatRsp) (h : b.phase ≠ .busy) :
    (bridgeNext b bin rsp).rbuf = b.rbuf := by
  rcases bridgeNext_cases b bin rsp with ⟨-, -, e⟩ | ⟨-, -, e⟩ | ⟨hp, -⟩ | ⟨-, e⟩
  · rw [e]
    rfl
  · rw [e]
  · exact absurd hp h
  · rw [e]

theorem bridgeNext_busy {b : Bridge} (bin : BridgePort) (rsp : BeatRsp) (h : b.phase = .busy) :
    bridgeNext b bin rsp = bridgeBeatEdge b rsp := by
  simp [bridgeNext, h]

theorem bridgeNext_rbuf {b : Bridge} (bin : BridgePort) (rsp : BeatRsp) (h : b.phase ≠ .busy ∨ b.we = true) :
    (bridgeNext b bin rsp).rbuf = b.rbuf := by
  by_cases hp : b.phase = .busy
  · obtain ⟨-, -, -, -, hwrite, -⟩ := bridgeBeatEdge_frame b rsp
    rw [bridgeNext_busy bin rsp hp]
    exact hwrite (h.resolve_left (not_not_intro hp))
  · exact bridgeNext_rbuf_of_not_busy bin rsp hp

theorem bridgeNext_lane (b : Bridge) (bin : BridgePort) (rsp : BeatRsp) {j : Nat} (h : j ≠ b.k.toNat) :
    lane (bridgeNext b bin rsp).rbuf j = lane b.rbuf j := by
  by_cases hp : b.phase = .busy
  · obtain ⟨-, -, -, -, -, hlane⟩ := bridgeBeatEdge_frame b rsp
    rw [bridgeNext_busy bin rsp hp]
    exact hlane j h
  · rw [bridgeNext_rbuf_of_not_busy bin rsp hp]

theorem bridgeNext_idle_of_no_request {b : Bridge} {bin : BridgePort} (rsp : BeatRsp) (hp : b.phase = .idle)
    (hr : bin.req = false) : bridgeNext b bin rsp = b := by
  simp [bridgeNext, hp, hr]

/-- A beat without an answer changes nothing in the CsrBridge. -/
theorem bridgeBeatEdge_outstanding (b : Bridge) {rsp : BeatRsp} (ha : rsp.ack = false) (he : rsp.err = false) :
    bridgeBeatEdge b rsp = b := by
  simp [bridgeBeatEdge, ha, he]

theorem bridgeBeatEdge_done_last {b : Bridge} {rsp : BeatRsp} (hp : b.phase = .busy)
    (hd : (bridgeBeatEdge b rsp).phase = .done) (he : (bridgeBeatEdge b rsp).err = false) :
    (bridgeBeatEdge b rsp).k = 3 := by
  cases hr : rsp.err with
  | true => simp [bridgeBeatEdge, hr] at he
  | false =>
    cases ha : rsp.ack with
    | false =>
      rw [bridgeBeatEdge_outstanding b ha hr, hp] at hd
      cases hd
    | true =>
      have hk : b.k = 3 := by simpa [bridgeBeatEdge, hr, ha] using hd
      simp [bridgeBeatEdge, hr, ha, hk]

/-- `Done` without an error is reached only by the completion of the last beat (43_csr_bridge.md R234). -/
theorem bridgeNext_done_last {b : Bridge} {bin : BridgePort} {rsp : BeatRsp} (hd : (bridgeNext b bin rsp).phase = .done)
    (he : (bridgeNext b bin rsp).err = false) : (bridgeNext b bin rsp).k = 3 := by
  rcases bridgeNext_cases b bin rsp with ⟨-, -, e⟩ | ⟨hp, -, e⟩ | ⟨hp, e⟩ | ⟨-, e⟩ <;> rw [e] at hd he ⊢
  · cases hd
  · cases hp.symm.trans hd
  · exact bridgeBeatEdge_done_last hp hd he
  · cases hd

/-! Who is on the buses -/

/-- The CsrBridge gets a request exactly where one is routed to it (41_decoder.md R163). -/
theorem bridgeInput_req {draw : Nat} {routed : Option (Nat × Region)} {shared : MainPort} :
    (bridgeInput draw routed shared).req = true ↔ ∃ k r, routed = some (k, r) ∧ r.target = .bridge := by
  rcases routed with - | ⟨k, r⟩
  · simp [bridgeInput]
  · by_cases hr : r.target = .bridge <;> simp [bridgeInput, hr]

theorem decoderRoute_some {cfg : Config} {shared : MainPort} {p : Nat × Region} (h : decoderRoute cfg shared = some p) :
    shared.req = true := by
  unfold decoderRoute at h
  split at h
  · assumption
  · cases h

/-- Only a granted initiator puts a request on the shared bus (42_arbiter.md R194). -/
theorem granted_of_sharedBus_req {s : State} (h : (sharedBus s).req = true) : ∃ g, s.grant = some g := by
  cases hg : s.grant with
  | none => simp [sharedBus_ungranted hg] at h
  | some g => exact ⟨g, rfl⟩

theorem dueError_eq_true {req due : Bool} {routed : Option (Nat × Region)} :
    dueError req routed due = true ↔ req = true ∧ routed = none ∧ due = false := by
  simp [dueError, and_assoc]

/-- While the CsrBridge is `Busy` its beat address is what the CsrDecoder routes. -/
theorem csrRoute_csrBus {s : State} (h : s.br.phase = .busy) :
    csrRoute s.cfg (csrBus s) = route s.cfg.csrMap (beatAddr s.br.adr s.br.k).toNat := by
  rw [csrBus, bridgeBeat_busy s.draw h]
  rfl

/-! What an edge leaves in the state -/

theorem heldBy_replicate (n i : Nat) : heldBy (List.replicate n none) i = none := by
  rw [heldBy, List.getD_eq_getElem?_getD, List.getElem?_replicate]
  split <;> rfl

section
variable (s : State) (sig : Signals)

theorem heldBy_runEdge {i : Nat} (hi : i < s.cfg.n) :
    heldBy (runEdge s sig).held i =
      heldNext (heldBy s.held i) (requestLine s.draw s.input i) (responseTo s sig i) := by
  rw [heldBy, runEdge_held, List.getD_eq_getElem?_getD, List.getElem?_map, List.getElem?_range hi]
  rfl

/-- While somebody is granted the pointer stands and the grant may only end (42_arbiter.md R198). -/
theorem runEdge_granted {g : Nat} (hg : s.grant = some g) :
    (runEdge s sig).last = s.last ∧ ((runEdge s sig).grant = some g ∨ (runEdge s sig).grant = none) := by
  refine ⟨by simp [lastNext, hg], ?_⟩
  cases hc : completes sig.decRsp.ack sig.decRsp.err with
  | true => exact .inr (by simp [grantNext, hg, hc])
  | false => exact .inl (by simp [grantNext, hg, hc])

/-- Every fault recorded stays recorded (10_state.md R47). -/
theorem runEdge_keeps_fault {f : Fault} (h : f ∈ s.faults) : f ∈ (runEdge s sig).faults :=
  mem_addFaults.2 (.inl h)

/-- A held request is kept while its initiator's transaction does not complete (45_fabric_step.md R296). -/
theorem runEdge_keeps_held {i : Nat} {q : Wreq} (hi : i < s.cfg.n) (hq : heldBy s.held i = some q)
    (hc : completes (responseTo s sig i).ack (responseTo s sig i).err = false) :
    heldBy (runEdge s sig).held i = some q := by
  simp only [heldBy_runEdge s sig hi, heldNext, hq, hc, Bool.false_eq_true, if_false]

/-- An initiator that is not granted sees no completion (42_arbiter.md R195). -/
theorem responseTo_ungranted {i : Nat} (hg : s.grant ≠ some i) :
    completes (responseTo s sig i).ack (responseTo s sig i).err = false := by
  rw [responseTo, arbiterReturn_other _ _ _ hg]
  rfl

/-- A transaction that does not complete keeps the bus and its held request. -/
theorem runEdge_keeps_transaction {g : Nat} {w : Wreq} (hn : g < s.cfg.n) (hg : s.grant = some g)
    (hw : heldBy s.held g = some w) (hc : completes sig.decRsp.ack sig.decRsp.err = false) :
    (runEdge s sig).grant = some g ∧ heldBy (runEdge s sig).held g = some w := by
  refine ⟨by simp [grantNext, hg, hc], runEdge_keeps_held s sig hn hw ?_⟩
  simpa [responseTo, hg] using hc

/-- After an edge the holder of the bus is the selected requester or the holder of a transaction that goes on. -/
theorem runEdge_grant_cases {g : Nat} (h : (runEdge s sig).grant = some g) :
    (s.grant = none ∧ select s.cfg.n s.last (requesting s.draw s.input) = some g) ∨
      (s.grant = some g ∧ completes sig.decRsp.ack sig.decRsp.err = false) := by
  rw [runEdge_grant] at h
  cases hg : s.grant with
  | none =>
    rw [hg] at h
    exact .inl ⟨rfl, h⟩
  | some g' =>
    cases hc : completes sig.decRsp.ack sig.decRsp.err with
    | true => simp [grantNext, hg, hc] at h
    | false => exact .inr ⟨by simpa [grantNext, hg, hc] using h, rfl⟩

end

/-! The configuration -/

/-- Settles O57: a step is a cycle (`step_next`), and no edge writes the configuration. -/
theorem configurationNeverChanges : Obligations.ConfigurationNeverChanges := by
  intro s t h
  obtain ⟨-, shared, beat, rfl⟩ := step_next h
  rw [fabricCycle_cfg, takeBench_cfg]

/-! The indices -/

theorem wellShaped_resetEdge {s : State} (sig : Signals) (hn : 0 < s.cfg.n) : WellShaped (resetEdge s sig) where
  last_lt := Nat.sub_lt hn Nat.one_pos
  grant_lt := by simp
  held_len := by simp

/-- Selection answers initiators only, so the pointer and the holder stay initiators. -/
theorem wellShaped_runEdge {s : State} (sig : Signals) (h : WellShaped s) : WellShaped (runEdge s sig) where
  last_lt := by
    cases hg : s.grant with
    | some g => simpa [lastNext, hg] using h.last_lt
    | none =>
      cases hs : select s.cfg.n s.last (requesting s.draw s.input) with
      | none => simpa [lastNext, hg, hs] using h.last_lt
      | some g => simpa [lastNext, hg, hs] using select_lt hs
  grant_lt := by
    intro g hg
    rcases runEdge_grant_cases s sig hg with ⟨-, hs⟩ | ⟨hs, -⟩
    · exact select_lt hs
    · exact h.grant_lt g hs
  held_len := by simp

theorem wellShaped_fabricCycle {s : State} (shared : MainPort) (beat : CsrPort) (hn : 0 < s.cfg.n) (h : WellShaped s) :
    WellShaped (fabricCycle s shared beat) := by
  cases hr : s.input.rst with
  | true =>
    rw [fabricCycle_reset _ _ hr]
    exact wellShaped_resetEdge _ hn
  | false =>
    rw [fabricCycle_run _ _ hr]
    exact wellShaped_runEdge _ h

/-- Settles O21: the bench is no part of the shape, an accepted configuration has an initiator, and a cycle keeps the
shape. -/
theorem indicesStayInitiators : Obligations.IndicesStayInitiators := by
  intro s t hs h
  obtain ⟨hc, shared, beat, rfl⟩ := step_next h
  have hbench : WellShaped (takeBench s) := ⟨hs.last_lt, hs.grant_lt, hs.held_len⟩
  exact wellShaped_fabricCycle shared beat (n_pos_of_accepted hc) hbench

/-! What a cycle of a transaction kind leaves unchanged -/

theorem exec_mainBus {i : Instr} {adr : WordAddr} {sel : Lanes} {datW : Word} {s t : State}
    (hi : i = .wbRead adr sel datW ∨ i = .wbWrite adr sel datW) (h : exec i s = .next t) :
    ∃ we, t = fabricCycle s (onShared adr we sel datW) (csrBus s) := by
  rcases hi with rfl | rfl
  · cases h
    exact ⟨false, rfl⟩
  · cases h
    exact ⟨true, rfl⟩

theorem exec_csrBeat {i : Instr} {adr : CsrAddr} {datW : Byte} {s t : State}
    (hi : i = .csrRead adr datW ∨ i = .csrWrite adr datW ∨ i = .csrWriteNosel adr datW) (h : exec i s = .next t) :
    ∃ we select, t = fabricCycle s (sharedBus s) (onCsr adr we select datW) := by
  rcases hi with rfl | rfl | rfl
  · cases h
    exact ⟨false, true, rfl⟩
  · cases h
    exact ⟨true, true, rfl⟩
  · cases h
    exact ⟨true, false, rfl⟩

/-- A request routed to no CsrBridge region leaves an `Idle` CsrBridge as it is. -/
theorem runEdge_br_of_routed_elsewhere {s : State} (shared : MainPort) (beat : CsrPort) (hp : s.br.phase = .idle)
    (hext : ∀ k r, decoderRoute s.cfg shared = some (k, r) → r.target = .external) :
    (runEdge s (signals s shared beat)).br = s.br := by
  refine bridgeNext_idle_of_no_request _ hp ?_
  rw [signals_bridgeIn, ← Bool.not_eq_true, bridgeInput_req]
  rintro ⟨k, r, hroute, hbridge⟩
  cases (hext k r hroute).symm.trans hbridge

/-- No error is due on the CSR sub-bus after a cycle without a beat (44_csr_decoder.md R274). -/
theorem runEdge_csrErr_of_not_busy {s : State} (shared : MainPort) (hp : s.br.phase ≠ .busy) :
    (runEdge s (signals s shared (csrBus s))).csrErr = false := by
  rw [← Bool.not_eq_true, runEdge_csrErr, signals_beat, dueError_eq_true]
  rintro ⟨hreq, -, -⟩
  exact hp ((bridgeBeat_req s.draw s.br).1 hreq)

/-- Settles O28: the kind's meaning is a cycle, and each clause is what the edge leaves in one part of the state. -/
theorem mainBusKindsFrame : Obligations.MainBusKindsFrame := by
  intro i adr sel datW s t hi h hrst
  obtain ⟨we, rfl⟩ := exec_mainBus hi h
  rw [fabricCycle_run _ _ hrst]
  refine ⟨rfl, rfl, rfl, fun g hg => runEdge_granted s _ hg,
    fun hp hext => runEdge_br_of_routed_elsewhere _ _ hp hext,
    fun hp => bridgeNext_latched _ _ hp, fun hb => bridgeNext_rbuf _ _ hb, fun j _ hj => bridgeNext_lane _ _ _ hj,
    fun hp => runEdge_csrErr_of_not_busy _ hp, fun f hf => runEdge_keeps_fault s _ hf,
    fun j q hj hq hg => runEdge_keeps_held s _ hj hq (responseTo_ungranted s _ hg)⟩

/-- Settles O46: the same clauses as `mainBusKindsFrame`, of the cycle with a beat on the CSR sub-bus. -/
theorem csrKindsFrame : Obligations.CsrKindsFrame := by
  intro i adr datW s t hi h hrst
  obtain ⟨we, select, rfl⟩ := exec_csrBeat hi h
  rw [fabricCycle_run _ _ hrst]
  refine ⟨rfl, rfl, rfl, fun g hg => runEdge_granted s _ hg, fun hp => bridgeNext_latched _ _ hp,
    fun hb => bridgeNext_rbuf _ _ hb, fun j _ hj => bridgeNext_lane _ _ _ hj, fun f hf => runEdge_keeps_fault s _ hf,
    fun j q hj hq hg => runEdge_keeps_held s _ hj hq (responseTo_ungranted s _ hg)⟩

/-! The invariants at rest -/

/-- The invariants speak of transactions in progress, and at rest there is none. -/
theorem fabricInv_of_atRest {s : State} (hw : WellShaped s) (hb : s.bench = []) (h : AtRest s) : FabricInv s := by
  obtain ⟨hgrant, hdec, hphase, hcsr, -⟩ := h
  exact {
    shaped := hw
    no_bench := hb
    grant_held := by simp [hgrant]
    bridge_busy := fun hp => absurd hphase hp
    dec_due := by simp [hdec]
    csr_due := by simp [hcsr]
    all_beats := by simp [hphase] }

theorem atRest_resetEdge (s : State) (sig : Signals) : AtRest (resetEdge s sig) :=
  ⟨rfl, rfl, rfl, rfl, heldBy_replicate _⟩

theorem atRest_resetOf (cfg : Config) : AtRest (State.resetOf cfg) := ⟨rfl, rfl, rfl, rfl, heldBy_replicate _⟩

theorem wellShaped_resetOf {cfg : Config} (hn : 0 < cfg.n) : WellShaped (State.resetOf cfg) where
  last_lt := Nat.sub_lt hn Nat.one_pos
  grant_lt := by simp
  held_len := by simp

theorem fabricInv_resetOf {cfg : Config} (hn : 0 < cfg.n) : FabricInv (State.resetOf cfg) :=
  fabricInv_of_atRest (wellShaped_resetOf hn) rfl (atRest_resetOf cfg)

/-- Settles O53: reset is at rest, and this hardware and every accepted configuration have an initiator. -/
theorem fabricInvariantHoldsAtReset : Obligations.FabricInvariantHoldsAtReset :=
  ⟨fabricInv_resetOf (by decide), fun _ hc => fabricInv_resetOf (n_pos_of_accepted hc)⟩

/-! The invariants over a faultless cycle -/

/-- A step of a fabric without a bench is one idle cycle. -/
theorem step_next_idleCycle {s t : State} (hb : s.bench = []) (h : step s = .next t) :
    configError s.cfg = none ∧ t = idleCycle s := by
  obtain ⟨hc, -⟩ := step_next h
  rw [step_eq_cycle hc hb] at h
  cases h
  exact ⟨hc, rfl⟩

/-- The signals of the fabric's own cycle. -/
def ownSignals (s : State) : Signals := signals s (sharedBus s) (csrBus s)

theorem idleCycle_run {s : State} (h : s.input.rst = false) : idleCycle s = runEdge s (ownSignals s) :=
  fabricCycle_run _ _ h

theorem idleCycle_reset {s : State} (h : s.input.rst = true) : idleCycle s = resetEdge s (ownSignals s) :=
  fabricCycle_reset _ _ h

/-- In a cycle that records no fault every initiator drives the request it holds (45_fabric_step.md R296). -/
theorem requestLine_of_held {s : State} {sig : Signals} (hf : Faultless (runEdge s sig)) {i : Nat} {w : Wreq}
    (hi : i < s.cfg.n) (hw : heldBy s.held i = some w) : requestLine s.draw s.input i = { req := true, word := w } := by
  have hnone : cycleFaults s.draw s.cycle s.cfg.n s.held s.input = [] := (addFaults_eq_nil.1 hf).2
  have hduty : ¬ breaksDuty (heldBy s.held i) (requestLine s.draw s.input i) = true := by
    intro hbreak
    have hmem := (mem_cycleFaults (f := .initiatorProtocol i s.cycle)).2 ⟨i, hi, hbreak, rfl⟩
    rw [hnone] at hmem
    cases hmem
  rcases hline : requestLine s.draw s.input i with ⟨req, word⟩
  rw [hw, hline] at hduty
  simpa [breaksDuty_iff] using hduty

section
variable {s : State} {sig : Signals} (inv : FabricInv s) (hf : Faultless (runEdge s sig))
include inv hf

/-- In a faultless cycle the shared bus carries the request the granted initiator holds. -/
theorem sharedBus_of_held {g : Nat} {w : Wreq} (hg : s.grant = some g) (hw : heldBy s.held g = some w) :
    sharedBus s = { req := true, q := BusReq.unpack w } := by
  rw [sharedBus_granted hg, requestLine_of_held hf (inv.shaped.grant_lt g hg) hw]

/-- In a faultless cycle the Decoder routes the request the granted initiator holds. -/
theorem decoderRoute_of_held {g : Nat} {w : Wreq} (hg : s.grant = some g) (hw : heldBy s.held g = some w) :
    decoderRoute s.cfg (sharedBus s) = routeOf s w := by
  rw [sharedBus_of_held inv hf hg hw]
  rfl

/-- In a faultless cycle a request on the shared bus is the held request of a granted initiator. -/
theorem held_of_sharedBus_req (hr : (sharedBus s).req = true) :
    ∃ g w, s.grant = some g ∧ heldBy s.held g = some w ∧ decoderRoute s.cfg (sharedBus s) = routeOf s w := by
  obtain ⟨g, hg⟩ := granted_of_sharedBus_req hr
  obtain ⟨w, hw⟩ := Option.isSome_iff_exists.1 (inv.grant_held g hg)
  exact ⟨g, w, hg, hw, decoderRoute_of_held inv hf hg hw⟩

/-- While a main-bus error is due no region is selected (41_decoder.md R164). -/
theorem decoderRoute_of_decErr (hd : s.decErr = true) : decoderRoute s.cfg (sharedBus s) = none := by
  obtain ⟨g, w, hg, hw, hroute⟩ := inv.dec_due hd
  rw [decoderRoute_of_held inv hf hg hw, hroute]

end

/-- While a CSR error is due no region is selected (44_csr_decoder.md R273). -/
theorem csrRoute_of_csrErr {s : State} (inv : FabricInv s) (hd : s.csrErr = true) :
    csrRoute s.cfg (csrBus s) = none := by
  obtain ⟨hbusy, hroute⟩ := inv.csr_due hd
  rw [csrRoute_csrBus hbusy, hroute]

/-- A request routed to the CsrBridge does not complete before `Done` (43_csr_bridge.md R232). -/
theorem decRsp_of_bridge_not_done {s : State} {shared : MainPort} (beat : CsrPort) {k : Nat} {r : Region}
    (hroute : decoderRoute s.cfg shared = some (k, r)) (hr : r.target = .bridge) (hp : s.br.phase ≠ .done) :
    completes (signals s shared beat).decRsp.ack (signals s shared beat).decRsp.err = false := by
  simp [hroute, decoderRsp, hr, bridgeRsp_not_done s.draw hp, completes]

/-- An unmapped request does not complete before its error is due (41_decoder.md R166). -/
theorem decRsp_of_unmapped_not_due {s : State} {shared : MainPort} (beat : CsrPort)
    (hroute : decoderRoute s.cfg shared = none) (hd : s.decErr = false) :
    completes (signals s shared beat).decRsp.ack (signals s shared beat).decRsp.err = false := by
  simp [hroute, decoderRsp, hd, completes]

/-- An unmapped beat has no answer before its error is due, and the CsrBridge waits (44_csr_decoder.md R274). -/
theorem runEdge_br_of_unmapped_beat {s : State} (shared : MainPort) (hbusy : s.br.phase = .busy)
    (hroute : csrRoute s.cfg (csrBus s) = none) (hd : s.csrErr = false) :
    (runEdge s (signals s shared (csrBus s))).br = s.br := by
  rw [runEdge_br, bridgeNext_busy _ _ hbusy]
  apply bridgeBeatEdge_outstanding <;> simp [hroute, csrDecoderRsp, hd]

/-- The CsrBridge is at work after an edge only where it accepted a request in the cycle or was `Busy` in it. -/
theorem bridgeNext_not_idle {b : Bridge} {bin : BridgePort} {rsp : BeatRsp} (h : (bridgeNext b bin rsp).phase ≠ .idle) :
    (b.phase = .idle ∧ bin.req = true) ∨ b.phase = .busy := by
  rcases bridgeNext_cases b bin rsp with ⟨hp, hr, -⟩ | ⟨hp, -, e⟩ | ⟨hp, -⟩ | ⟨-, e⟩
  · exact .inl ⟨hp, hr⟩
  · exact absurd ((congrArg Bridge.phase e).trans hp) h
  · exact .inr hp
  · exact absurd (congrArg Bridge.phase e) h

/-- A CSR error falls due behind an unmapped beat, on which the CsrBridge waits. -/
theorem runEdge_csr_due {s : State} (hd : (runEdge s (ownSignals s)).csrErr = true) :
    (runEdge s (ownSignals s)).br.phase = .busy ∧
      route s.cfg.csrMap (beatAddr (runEdge s (ownSignals s)).br.adr (runEdge s (ownSignals s)).br.k).toNat = none := by
  obtain ⟨hreq, hroute, hdue⟩ := dueError_eq_true.1 hd
  have hbusy : s.br.phase = .busy := (bridgeBeat_req s.draw s.br).1 hreq
  rw [show (runEdge s (ownSignals s)).br = s.br from runEdge_br_of_unmapped_beat (sharedBus s) hbusy hroute hdue]
  exact ⟨hbusy, (csrRoute_csrBus hbusy).symm.trans hroute⟩

section
variable {s : State} (inv : FabricInv s) (hf : Faultless (runEdge s (ownSignals s)))
include inv

/-- A new holder of the bus raised a request, and an old one still holds its own. -/
theorem runEdge_grant_held {g : Nat} (hg : (runEdge s (ownSignals s)).grant = some g) :
    (heldBy (runEdge s (ownSignals s)).held g).isSome := by
  rcases runEdge_grant_cases s _ hg with ⟨hnone, hs⟩ | ⟨hsome, hc⟩
  · have hreq : (requestLine s.draw s.input g).req = true := (select_mem hs).1
    have hrsp := responseTo_ungranted s (ownSignals s) (i := g) (by simp [hnone])
    simp only [heldBy_runEdge s _ (select_lt hs), heldNext, hrsp]
    cases heldBy s.held g <;> simp [hreq]
  · obtain ⟨w, hw⟩ := Option.isSome_iff_exists.1 (inv.grant_held g hsome)
    rw [(runEdge_keeps_transaction s _ (inv.shaped.grant_lt g hsome) hsome hw hc).2]
    rfl

include hf

/-- A CsrBridge at work after the edge was in `Idle` or `Busy` before it, so the wide request goes on. -/
theorem runEdge_bridge_busy (hp : (runEdge s (ownSignals s)).br.phase ≠ .idle) :
    ∃ g w k r, (runEdge s (ownSignals s)).grant = some g ∧ heldBy (runEdge s (ownSignals s)).held g = some w ∧
      routeOf (runEdge s (ownSignals s)) w = some (k, r) ∧ r.target = .bridge := by
  have hwork := bridgeNext_not_idle hp
  have hnotDone : s.br.phase ≠ .done := by
    rcases hwork with ⟨h, -⟩ | h <;> simp [h]
  have hbefore : ∃ g w k r, s.grant = some g ∧ heldBy s.held g = some w ∧ routeOf s w = some (k, r) ∧
      r.target = .bridge := by
    rcases hwork with ⟨-, hreq⟩ | hbusy
    · obtain ⟨k, r, hroute, hr⟩ := bridgeInput_req.1 hreq
      obtain ⟨g, w, hg, hw, e⟩ := held_of_sharedBus_req inv hf (decoderRoute_some hroute)
      exact ⟨g, w, k, r, hg, hw, e.symm.trans hroute, hr⟩
    · exact inv.bridge_busy (by simp [hbusy])
  obtain ⟨g, w, k, r, hg, hw, hroute, hr⟩ := hbefore
  have hc := decRsp_of_bridge_not_done (csrBus s) ((decoderRoute_of_held inv hf hg hw).trans hroute) hr hnotDone
  obtain ⟨hg', hw'⟩ := runEdge_keeps_transaction s (ownSignals s) (inv.shaped.grant_lt g hg) hg hw hc
  exact ⟨g, w, k, r, hg', hw', hroute, hr⟩

/-- A main-bus error falls due behind an unmapped request, which has no answer yet and so goes on. -/
theorem runEdge_dec_due (hd : (runEdge s (ownSignals s)).decErr = true) :
    ∃ g w, (runEdge s (ownSignals s)).grant = some g ∧ heldBy (runEdge s (ownSignals s)).held g = some w ∧
      routeOf (runEdge s (ownSignals s)) w = none := by
  obtain ⟨hreq, hroute, hdue⟩ := dueError_eq_true.1 hd
  obtain ⟨g, w, hg, hw, e⟩ := held_of_sharedBus_req inv hf hreq
  have hc := decRsp_of_unmapped_not_due (csrBus s) hroute hdue
  obtain ⟨hg', hw'⟩ := runEdge_keeps_transaction s (ownSignals s) (inv.shaped.grant_lt g hg) hg hw hc
  exact ⟨g, w, hg', hw', e.symm.trans hroute⟩

theorem fabricInv_runEdge : FabricInv (runEdge s (ownSignals s)) where
  shaped := wellShaped_runEdge _ inv.shaped
  no_bench := inv.no_bench
  grant_held _ hg := runEdge_grant_held inv hg
  bridge_busy hp := runEdge_bridge_busy inv hf hp
  dec_due hd := runEdge_dec_due inv hf hd
  csr_due hd := runEdge_csr_due hd
  all_beats hd he := bridgeNext_done_last hd he

end

/-- Settles O52: a reset edge leaves the fabric at rest, and an edge without reset keeps each invariant by its own lemma
(`fabricInv_runEdge`). -/
theorem fabricInvariantIsKept : Obligations.FabricInvariantIsKept := by
  intro s t inv h hf
  obtain ⟨hc, rfl⟩ := step_next_idleCycle inv.no_bench h
  cases hr : s.input.rst with
  | true =>
    rw [idleCycle_reset hr]
    exact fabricInv_of_atRest (wellShaped_resetEdge _ (n_pos_of_accepted hc)) inv.no_bench (atRest_resetEdge s _)
  | false =>
    rw [idleCycle_run hr] at hf ⊢
    exact fabricInv_runEdge inv hf

/-- Settles O54: under the invariants an error is due only where no region is selected, and there the decoder answers
with it. -/
theorem noTargetIsSelectedWhileAnErrorIsDue : Obligations.NoTargetIsSelectedWhileAnErrorIsDue := by
  intro s t inv h hf hr
  obtain ⟨-, rfl⟩ := step_next_idleCycle inv.no_bench h
  rw [idleCycle_run hr] at hf ⊢
  refine ⟨fun hd => ?_, fun hd => ?_⟩
  · have hroute := decoderRoute_of_decErr inv hf hd
    exact ⟨hroute, by simp [ownSignals, hroute, decoderRsp, hd]⟩
  · have hroute := csrRoute_of_csrErr inv hd
    exact ⟨hroute, by simp [ownSignals, hroute, csrDecoderRsp, hd]⟩

end Sys2Proof.Machine
end

section
/-! The memory map (20_memory.md): which addresses of this hardware no window of R63 or R64 contains. -/

namespace Sys2Proof.Machine

/-! Routing to no region -/

theorem routeFrom_eq_none_iff (map : List Region) (k a : Nat) :
    routeFrom k map a = none ↔ ∀ r ∈ map, ¬(r.base ≤ a ∧ a < r.base + r.size) := by
  induction map generalizing k with
  | nil => simp [routeFrom]
  | cons r rest ih =>
    rw [routeFrom, List.forall_mem_cons, ← contains_iff, ← ih (k + 1)]
    cases contains r a <;> simp

/-- An address is unmapped when it lies before or behind every window of the map (40_address_map.md R140). -/
theorem route_eq_none_iff (map : List Region) (a : Nat) :
    route map a = none ↔ ∀ r ∈ map, a < r.base ∨ r.base + r.size ≤ a := by
  simp only [route, routeFrom_eq_none_iff, not_and_or, not_le, not_lt]

/-! The windows of this hardware -/

/-- The windows of R63; `flash` starts at 0, so no address lies before it. The bounds of R11 are not needed yet. -/
theorem route_hardwareMainMap_eq_none_iff (o : OpenSizes) (a : Nat) :
    route (hardwareMainMap o) a = none ↔
      o.flash ≤ a ∧ (a < 0x10000000 ∨ 0x10000800 ≤ a) ∧ (a < 0xa0000000 ∨ 0xa0000000 + o.debug ≤ a) ∧
        (a < 0xb0000000 ∨ 0xc0000000 ≤ a) := by
  simp [route_eq_none_iff, hardwareMainMap, mainRegion, flashBase, sramBase, sramSize, debugBase, csrBase,
    csrWindowSize]

/-- The windows of R64, likewise. -/
theorem route_hardwareCsrMap_eq_none_iff (o : OpenSizes) (a : Nat) :
    route (hardwareCsrMap o) a = none ↔
      (a < 0x01000000 ∨ 0x01000020 ≤ a) ∧ (a < 0x02000000 ∨ 0x02000000 + o.uart ≤ a) ∧
        (a < 0x04000000 ∨ 0x04000000 + o.id ≤ a) := by
  simp [route_eq_none_iff, hardwareCsrMap, csrRegion, gpioBase, gpioCsrSize, uartBase, idBase]

theorem openSizesOk_bounds {o : OpenSizes} (h : openSizesOk o = true) :
    o.flash ≤ 0x10000000 ∧ o.debug ≤ 0x10000000 ∧ o.uart ≤ 0x02000000 ∧ o.id ≤ 0x04000000 := by
  obtain ⟨-, hflash, -, -, hdebug, -, -, huart, -, hid⟩ := of_decide_eq_true h
  exact ⟨hflash, hdebug, huart, hid⟩

/-- Settles O15: the bounds of 00_scope.md R11 keep each window below the next one's base, so the addresses outside all
windows are the gaps between neighbours. -/
theorem unmappedRangesOfTheHardware : Obligations.UnmappedRangesOfTheHardware := by
  intro o ho
  obtain ⟨hflash, hdebug, huart, -⟩ := openSizesOk_bounds ho
  refine ⟨fun a _ => ?_, fun a _ => ?_⟩
  · rw [route_hardwareMainMap_eq_none_iff]
    omega
  · rw [route_hardwareCsrMap_eq_none_iff]
    omega

end Sys2Proof.Machine
end

section
/-! The encoding (30_encoding.md): the decoder and the encoder undo each other, on packed words and on bytes; the opcode
bits; the reserved kind; the place of a table word; and the trace statements. -/

namespace Sys2Proof

/-! Packed words (R104, R106, R108, R109) -/

@[simp] theorem decodePacket_encode (i : Instr) : decodePacket (encode i) = i := by
  cases i <;> simp [encode, decodePacket, decodeWreq, decodeCreq]

theorem encode_decodeWreq (w : Wreq) : encode (decodeWreq w) = .wreq w := by
  have hpack := busReq_pack_unpack w
  rcases hq : BusReq.unpack w with ⟨adr, we, sel, datW⟩
  rw [hq] at hpack
  cases we <;> simp [decodeWreq, hq, encode, hpack]

theorem encode_decodeCreq (w : Creq) : encode (decodeCreq w) = .creq w := by
  have hpack := beatReq_pack_unpack w
  rcases hq : BeatReq.unpack w with ⟨adr, we, select, datW⟩
  rw [hq] at hpack
  cases we <;> cases select <;> simp [decodeCreq, hq, encode, hpack]

/-- Settles O2, a statement for each of the two packed formats. -/
theorem everyPackedWordEncodesItsKind : Obligations.EveryPackedWordEncodesItsKind :=
  ⟨encode_decodeWreq, encode_decodeCreq⟩

/-- Settles O4: the six words are closed terms the decoder evaluates. -/
theorem wordsOfTheSpecDecode : Obligations.WordsOfTheSpecDecode := by
  unfold Obligations.WordsOfTheSpecDecode
  decide

/-! Packed words in bytes (log entry 13) -/

theorem packetBits_lt (p : Packet) : packetBits p < 2 ^ packedWidth (packetBus p) := by
  cases p with
  | wreq w => exact w.isLt
  | creq w => exact w.isLt

theorem packetOfNat_packetBits (p : Packet) : packetOfNat (packetBus p) (packetBits p) = p := by
  cases p <;> simp [packetBus, packetBits, packetOfNat]

/-- The bytes of a packed word hold all its bits. -/
theorem two_pow_packedWidth_le (bus : Bus) : 2 ^ packedWidth bus ≤ 256 ^ packedBytes bus := by
  cases bus <;> decide

@[simp] theorem packetBytes_length (p : Packet) : (packetBytes p).length = packedBytes (packetBus p) :=
  natToBytes_length _ _

theorem bytesToNat_packetBytes (p : Packet) : bytesToNat (packetBytes p) = packetBits p :=
  bytesToNat_natToBytes _ _ ((packetBits_lt p).trans_le (two_pow_packedWidth_le _))

section
variable {bus : Bus} {bytes : List Byte}

theorem decodeBytes_truncated (h : bytes.length < packedBytes bus) :
    decodeBytes bus bytes = .error (.truncated bus) :=
  if_pos h

theorem decodeBytes_padding (hlen : packedBytes bus ≤ bytes.length)
    (hv : 2 ^ packedWidth bus ≤ bytesToNat (bytes.take (packedBytes bus))) :
    decodeBytes bus bytes = .error (.padding bus) := by
  simp [decodeBytes, hlen.not_gt, hv.not_gt]

theorem decodeBytes_ok (hlen : packedBytes bus ≤ bytes.length)
    (hv : bytesToNat (bytes.take (packedBytes bus)) < 2 ^ packedWidth bus) :
    decodeBytes bus bytes =
      .ok (decodePacket (packetOfNat bus (bytesToNat (bytes.take (packedBytes bus)))), bytes.drop (packedBytes bus)) := by
  simp [decodeBytes, hlen.not_gt, hv]

end

/-- The bytes of a packet, whatever follows them, decode to its kind. -/
theorem decodeBytes_packetBytes (p : Packet) (rest : List Byte) :
    decodeBytes (packetBus p) (packetBytes p ++ rest) = .ok (decodePacket p, rest) := by
  have htake : (packetBytes p ++ rest).take (packedBytes (packetBus p)) = packetBytes p :=
    List.take_left' (packetBytes_length p)
  have hdrop : (packetBytes p ++ rest).drop (packedBytes (packetBus p)) = rest :=
    List.drop_left' (packetBytes_length p)
  have hbits : bytesToNat ((packetBytes p ++ rest).take (packedBytes (packetBus p))) = packetBits p := by
    rw [htake, bytesToNat_packetBytes]
  rw [decodeBytes_ok (by simp) (hbits ▸ packetBits_lt p), hbits, hdrop, packetOfNat_packetBits]

/-- Settles O1: the bytes decode to the packet's kind, and the packet of a kind decodes to it. -/
theorem decodeInvertsEncodeOnBytes : Obligations.DecodeInvertsEncodeOnBytes := by
  intro i rest
  rw [decodeBytes_packetBytes, decodePacket_encode]

/-- Settles O5: the three branches of `decodeBytes`. -/
theorem malformedBytesAreRefusedByName : Obligations.MalformedBytesAreRefusedByName :=
  fun _ _ => ⟨decodeBytes_truncated, decodeBytes_padding, fun hlen hv => ⟨_, decodeBytes_ok hlen hv⟩⟩

/-! The opcode bits (R108, R109, R111) -/

theorem wreq_and_mask (w : Wreq) :
    w &&& 0x1000000000#67 = if (BusReq.unpack w).we then 0x1000000000#67 else 0#67 := by
  have hbit := Laws.OpcodeBits.wreq_opcode_bit (BusReq.unpack w)
  rw [busReq_pack_unpack] at hbit
  apply BitVec.eq_of_toNat_eq
  rw [BitVec.toNat_and, BitVec.toNat_ofNat, Nat.mod_eq_of_lt (by decide), hbit]
  cases (BusReq.unpack w).we <;> rfl

theorem creq_and_mask (w : Creq) :
    w &&& 0x300#38 =
      (if (BeatReq.unpack w).we then 0x200#38 else 0#38) + (if (BeatReq.unpack w).select then 0x100#38 else 0#38) := by
  have hbits := Laws.OpcodeBits.creq_opcode_bits (BeatReq.unpack w)
  rw [beatReq_pack_unpack] at hbits
  apply BitVec.eq_of_toNat_eq
  rw [BitVec.toNat_and, BitVec.toNat_ofNat, Nat.mod_eq_of_lt (by decide), hbits]
  cases (BeatReq.unpack w).we <;> cases (BeatReq.unpack w).select <;> rfl

/-- Settles O3: the masked word is made of the opcode bits, and in each case of them both sides of every equivalence are
closed. -/
theorem opcodeBitsDecideTheKind : Obligations.OpcodeBitsDecideTheKind := by
  refine ⟨fun w => ?_, fun w => ?_⟩
  · rw [wreq_and_mask]
    cases hwe : (BusReq.unpack w).we <;> simp [decodeWreq, hwe]
  · rw [creq_and_mask]
    cases hwe : (BeatReq.unpack w).we <;> cases hselect : (BeatReq.unpack w).select <;> simp [decodeCreq, hwe, hselect]

end Sys2Proof

namespace Sys2Proof.Machine

/-! The reserved kind (R111) -/

theorem exec_csrReserved (adr : CsrAddr) (datW : Byte) (s : State) :
    exec (.csrReserved adr datW) s = .refused .csrReadWithSelectZero := rfl

theorem decodeWreq_ne_csrReserved (w : Wreq) (adr : CsrAddr) (datW : Byte) : decodeWreq w ≠ .csrReserved adr datW := by
  cases hwe : (BusReq.unpack w).we <;> simp [decodeWreq, hwe]

theorem decodeCreq_ne_csrReserved {w : Creq} (h : (BeatReq.unpack w).we = true ∨ (BeatReq.unpack w).select = true)
    (adr : CsrAddr) (datW : Byte) : decodeCreq w ≠ .csrReserved adr datW := by
  rcases h with hwe | hselect
  · cases hselect : (BeatReq.unpack w).select <;> simp [decodeCreq, hwe, hselect]
  · cases hwe : (BeatReq.unpack w).we <;> simp [decodeCreq, hwe, hselect]

theorem sharedPacket_wreq {s : State} {p : Packet} (h : sharedPacket s = some p) : ∃ w, p = .wreq w := by
  cases hg : s.grant with
  | none => simp [sharedPacket, hg] at h
  | some g =>
    obtain ⟨-, rfl⟩ : _ ∧ Packet.wreq (requestLine s.draw s.input g).word = p := by simpa [sharedPacket, hg] using h
    exact ⟨_, rfl⟩

/-- The fabric runs a main-bus request or a beat its CsrBridge forms, and neither decodes to the reserved kind. -/
theorem decodePacket_fabricPacket_ne_csrReserved {s : State} {p : Packet} (h : fabricPacket s = some p)
    (adr : CsrAddr) (datW : Byte) : decodePacket p ≠ .csrReserved adr datW := by
  by_cases hp : s.br.phase = .busy
  · rw [fabricPacket_of_busy hp, csrBus, bridgeBeat_busy s.draw hp] at h
    cases h
    refine decodeCreq_ne_csrReserved ?_ adr datW
    rw [beatReq_unpack_pack]
    exact beatOf_not_reserved ..
  · rw [fabricPacket_of_not_busy hp] at h
    obtain ⟨w, rfl⟩ := sharedPacket_wreq h
    exact decodeWreq_ne_csrReserved w adr datW

/-- Settles O45: the refusal is the kind's arm of `exec`, and without a bench a cycle fetches what the fabric runs. -/
theorem reservedBeatIsRefusedAndNeverIssued : Obligations.ReservedBeatIsRefusedAndNeverIssued := by
  refine ⟨exec_csrReserved, fun s adr datW hb hfetch => ?_⟩
  rw [fetch_of_no_bench hb, Option.map_eq_some_iff] at hfetch
  obtain ⟨p, hp, hkind⟩ := hfetch
  exact decodePacket_fabricPacket_ne_csrReserved hp adr datW hkind

/-! The place of a table word (log entries 13 and 14) -/

theorem placePacket_cfg (s : State) (p : Packet) : (placePacket s p).cfg = s.cfg := by
  cases p <;> rfl

/-- A placed packet is what the next cycle fetches. -/
theorem fetch_placePacket (s : State) (p : Packet) : fetch (placePacket s p) = some (decodePacket p) := by
  cases p with
  | wreq w =>
    have hidle : (placePacket s (.wreq w)).br.phase ≠ .busy := by simp
    have hshared : sharedPacket (placePacket s (.wreq w)) = some (.wreq w) := sharedPacket_of_request (g := 0) rfl rfl
    rw [fetch_of_no_bench (placeWreq_bench s w), fabricPacket_of_not_busy hidle, hshared, Option.map_some]
  | creq w => rfl

/-- A table word that decodes is the packed word of the packet it makes. -/
theorem decodeTableWord_some {nbits w : Nat} {i : Instr} (h : decodeTableWord nbits w = some i) :
    decodePacket (packetOfNat (tableBus nbits w) w) = i := by
  unfold decodeTableWord at h
  generalize tableBus nbits w = bus at h ⊢
  have hlen : (natToBytes (packedBytes bus) w).length = packedBytes bus := natToBytes_length _ _
  by_cases hfits : w < 256 ^ packedBytes bus
  case neg => simp [hfits] at h
  case pos =>
    have hv : bytesToNat ((natToBytes (packedBytes bus) w).take (packedBytes bus)) = w := by
      rw [List.take_of_length_le hlen.le, bytesToNat_natToBytes _ _ hfits]
    by_cases hwidth : w < 2 ^ packedWidth bus
    · have hok := decodeBytes_ok hlen.ge (hv.trans_lt hwidth)
      rw [hv] at hok
      simpa [hfits, hok] using h
    · have hpadding := decodeBytes_padding hlen.ge (hv.symm ▸ not_lt.1 hwidth)
      simp [hfits, hpadding] at h

/-- Settles O49: the word decodes to the kind of the packet that is placed, which the next cycle fetches. -/
theorem placedWordRunsNext : Obligations.PlacedWordRunsNext := by
  intro s nbits w i hc hi
  have hcfg : configError (s.withFetchWord nbits w).cfg = none := by
    rw [State.withFetchWord, placeTableWord, placePacket_cfg, hc]
  refine step_of_fetch hcfg ?_
  rw [← decodeTableWord_some hi]
  exact fetch_placePacket s _

/-! The trace statements (R115, R116, R67) -/

/-- The word address of a byte address is its upper bits (R115). -/
theorem ofNat_div_four_eq_extractLsb' (a : Nat) : BitVec.ofNat 30 (a / 4) = (BitVec.ofNat 32 a).extractLsb' 2 30 := by
  apply BitVec.eq_of_toNat_eq
  rw [BitVec.toNat_ofNat, BitVec.extractLsb'_toNat, BitVec.toNat_ofNat, Nat.shiftRight_eq_div_pow]
  omega

/-- The lane of a byte address in its word (20_memory.md R67). -/
theorem byteAddr_add_eq_iff {a j : Nat} (ha : a < 2 ^ 32) (hj : j < 4) :
    byteAddr (BitVec.ofNat 30 (a / 4)) + j = a ↔ j = a % 4 := by
  rw [byteAddr, BitVec.toNat_ofNat]
  omega

theorem byteAddr_add_eq_succ_iff {a j : Nat} (ha : a < 2 ^ 32) (he : a % 2 = 0) (hj : j < 4) :
    byteAddr (BitVec.ofNat 30 (a / 4)) + j = a + 1 ↔ j = a % 4 + 1 := by
  rw [byteAddr, BitVec.toNat_ofNat]
  omega

/-- The mask of `n` lanes from lane `k` up. -/
theorem lanesFrom_getLsbD (n k : Nat) {j : Nat} (hj : j < 4) :
    (BitVec.ofNat 4 (2 ^ n - 1) <<< k).getLsbD j = true ↔ k ≤ j ∧ j < k + n := by
  rw [BitVec.getLsbD_shiftLeft, BitVec.getLsbD_ofNat, Nat.testBit_two_pow_sub_one]
  simp only [Bool.and_eq_true, decide_eq_true_eq, Bool.not_eq_true', decide_eq_false_iff_not]
  omega

theorem oneLane_getLsbD (k : Nat) {j : Nat} (hj : j < 4) : ((1 : Lanes) <<< k).getLsbD j = true ↔ j = k := by
  refine (lanesFrom_getLsbD 1 k hj).trans ?_
  omega

theorem twoLanes_getLsbD (k : Nat) {j : Nat} (hj : j < 4) :
    ((3 : Lanes) <<< k).getLsbD j = true ↔ j = k ∨ j = k + 1 := by
  refine (lanesFrom_getLsbD 2 k hj).trans ?_
  omega

/-- A value put at lane `k` has its byte `i` in lane `k + i`. -/
theorem lane_shiftLeft {n : Nat} (v : BitVec n) {k i : Nat} (h : k + i < 4) :
    lane (v.setWidth 32 <<< (8 * k)) (k + i) = v.extractLsb' (8 * i) 8 := by
  apply BitVec.eq_of_getLsbD_eq
  intro b hb
  have hin : 8 * (k + i) + b < 32 := by omega
  have habove : ¬ 8 * (k + i) + b < 8 * k := by omega
  have hbyte : 8 * i + b < 32 := by omega
  rw [lane_getLsbD, BitVec.getLsbD_shiftLeft, BitVec.getLsbD_setWidth, BitVec.getLsbD_extractLsb',
    show 8 * (k + i) + b - 8 * k = 8 * i + b by omega]
  simp [hb, hin, habove, hbyte]

/-- A statement that issues a main-bus kind has its initiator hold the kind's packed word. -/
theorem stmtOp_of_instr {s : Stmt} {i : Instr} {w : Wreq} (hi : stmtInstr s = some i) (hw : encode i = .wreq w) :
    stmtOp s = some (.issue w) := by
  cases s with
  | idle n => simp [stmtInstr] at hi
  | rd | wr | rdb | wrb | rdh | wrh => simp [stmtOp, stmtPacket, hi, hw]

section
variable {a : Nat} (ha : a < 2 ^ 32)
include ha

theorem stmtOp_rd (h : a % 4 = 0) (sel : Lanes) :
    stmtOp (.rd a sel) = some (.issue ((BitVec.ofNat 32 a).extractLsb' 2 30 ++ 0#1 ++ sel ++ 0#32)) := by
  have hi : stmtInstr (.rd a sel) = some (.wbRead (BitVec.ofNat 30 (a / 4)) sel 0) := if_pos (decide_eq_true ⟨h, ha⟩)
  rw [← ofNat_div_four_eq_extractLsb']
  exact stmtOp_of_instr hi rfl

theorem stmtOp_wr (h : a % 4 = 0) (sel : Lanes) (d : Word) :
    stmtOp (.wr a d sel) = some (.issue ((BitVec.ofNat 32 a).extractLsb' 2 30 ++ 1#1 ++ sel ++ d)) := by
  have hi : stmtInstr (.wr a d sel) = some (.wbWrite (BitVec.ofNat 30 (a / 4)) sel d) :=
    if_pos (decide_eq_true ⟨h, ha⟩)
  rw [← ofNat_div_four_eq_extractLsb']
  exact stmtOp_of_instr hi rfl

theorem rdb_selects_its_byte :
    ∃ adr sel, stmtInstr (.rdb a) = some (.wbRead adr sel 0) ∧
      ∀ j, j < 4 → (sel.getLsbD j = true ↔ byteAddr adr + j = a) ∧
        (byteAddr adr + j = a → ∀ d, rdbByte a d = lane d j) := by
  refine ⟨_, _, if_pos (decide_eq_true ha), fun j hj => ?_⟩
  rw [byteAddr_add_eq_iff ha hj, oneLane_getLsbD _ hj]
  refine ⟨Iff.rfl, ?_⟩
  rintro rfl d
  rfl

theorem wrb_selects_its_byte (b : Byte) :
    ∃ adr sel d, stmtInstr (.wrb a b) = some (.wbWrite adr sel d) ∧
      ∀ j, j < 4 → (sel.getLsbD j = true ↔ byteAddr adr + j = a) ∧ (byteAddr adr + j = a → lane d j = b) := by
  refine ⟨_, _, _, if_pos (decide_eq_true ha), fun j hj => ?_⟩
  rw [byteAddr_add_eq_iff ha hj, oneLane_getLsbD _ hj]
  refine ⟨Iff.rfl, ?_⟩
  rintro rfl
  exact (lane_shiftLeft b (i := 0) hj).trans BitVec.extractLsb'_eq_self

theorem rdh_selects_its_bytes (h : a % 2 = 0) :
    ∃ adr sel, stmtInstr (.rdh a) = some (.wbRead adr sel 0) ∧
      ∀ j, j < 4 → (sel.getLsbD j = true ↔ byteAddr adr + j = a ∨ byteAddr adr + j = a + 1) := by
  refine ⟨_, _, if_pos (decide_eq_true ⟨h, ha⟩), fun j hj => ?_⟩
  rw [byteAddr_add_eq_iff ha hj, byteAddr_add_eq_succ_iff ha h hj, twoLanes_getLsbD _ hj]

theorem wrh_selects_its_bytes (he : a % 2 = 0) (h : BitVec 16) :
    ∃ adr sel d, stmtInstr (.wrh a h) = some (.wbWrite adr sel d) ∧
      ∀ j, j < 4 → (sel.getLsbD j = true ↔ byteAddr adr + j = a ∨ byteAddr adr + j = a + 1) ∧
        (byteAddr adr + j = a → lane d j = h.extractLsb' 0 8) ∧
        (byteAddr adr + j = a + 1 → lane d j = h.extractLsb' 8 8) := by
  refine ⟨_, _, _, if_pos (decide_eq_true ⟨he, ha⟩), fun j hj => ?_⟩
  rw [byteAddr_add_eq_iff ha hj, byteAddr_add_eq_succ_iff ha he hj, twoLanes_getLsbD _ hj]
  refine ⟨Iff.rfl, ?_, ?_⟩
  · rintro rfl
    exact lane_shiftLeft h (i := 0) hj
  · rintro rfl
    exact lane_shiftLeft h (i := 1) hj

end

/-- `RD` and `WR` take a multiple of 4 (R115). -/
theorem stmtOp_unaligned {a : Nat} (h : a % 4 ≠ 0) (sel : Lanes) (d : Word) :
    stmtOp (.rd a sel) = none ∧ stmtOp (.wr a d sel) = none := by
  simp [stmtOp, stmtPacket, stmtInstr, Stmt.wf, h]

/-- The halfword forms take an even address (R116; log entry 24). -/
theorem stmtInstr_odd_halfword {a : Nat} (h : a % 2 = 1) :
    stmtInstr (.rdh a) = none ∧ ∀ v : BitVec 16, stmtInstr (.wrh a v) = none := by
  simp [stmtInstr, Stmt.wf, h]

/-- Settles O6, a lemma for each form of statement. -/
theorem narrowStatementsSelectTheirBytes : Obligations.NarrowStatementsSelectTheirBytes := by
  intro a ha
  exact ⟨fun h sel d => ⟨stmtOp_rd ha h sel, stmtOp_wr ha h sel d, rfl, rfl⟩,
    fun h sel d => stmtOp_unaligned h sel d,
    fun _ => rfl,
    rdb_selects_its_byte ha,
    wrb_selects_its_byte ha,
    rdh_selects_its_bytes ha,
    wrh_selects_its_bytes ha,
    stmtInstr_odd_halfword⟩

end Sys2Proof.Machine
end

section
/-! The address map (40_address_map.md): what `add` accepts, the lawful maps, routing in an accepted configuration, and
the configurations that start. -/

namespace Sys2Proof.Machine

/-! Routing (R140) -/

theorem route_some {map : List Region} {a k : Nat} {r : Region} (h : route map a = some (k, r)) :
    map[k]? = some r ∧ r.base ≤ a ∧ a < r.base + r.size := by
  obtain ⟨-, hk, hin⟩ := routeFrom_some h
  exact ⟨hk, (contains_iff r a).1 hin⟩

/-- Settles O7: what `routeFrom` answers, and when it answers nothing, at the place 0. -/
theorem routeIsExactContainment : Obligations.RouteIsExactContainment := by
  intro map a
  exact ⟨fun _ _ h => route_some h, routeFrom_eq_none_iff map 0 a⟩

/-! The checks of `add` (R132 to R139) -/

/-- One check in front of the others: nothing is reported when it passes and they do. -/
theorem check_eq_none_iff {α : Type} {p : Prop} [Decidable p] {e : α} {rest : Option α} :
    (if p then some e else rest) = none ↔ ¬p ∧ rest = none := by
  split <;> simp [*]

theorem overlaps_eq_false_iff (r : Region) (base size : Nat) :
    overlaps r base size = false ↔ base + size ≤ r.base ∨ r.base + r.size ≤ base := by
  simp only [overlaps, decide_eq_false_iff_not, not_and_or, not_lt]

section
variable (started : Bool) (bus : Bus) (regions : List Region) (t : TargetPort) (name : String) (base : Nat)

theorem addCheck_eq_none_iff :
    addCheck started bus regions t name base = none ↔
      started = false ∧ 1 ≤ t.size ∧ t.dataWidth = bus.width ∧ t.granularity = bus.granularity ∧
      base + t.size ≤ 2 ^ bus.addrBits ∧ (bus = .main → base % 4 = 0 ∧ t.size % 4 = 0) ∧
      base % 2 ^ clog2 t.size = 0 ∧ (∀ r ∈ regions, r.name ≠ name) ∧
      ∀ r ∈ regions, base + t.size ≤ r.base ∨ r.base + r.size ≤ base := by
  simp only [addCheck, check_eq_none_iff, Option.map_eq_none_iff, List.find?_eq_none, Bool.not_eq_true,
    overlaps_eq_false_iff, requireAligned, true_and, not_or, not_and, not_not, not_lt, Nat.one_le_iff_ne_zero,
    List.any_eq_true, beq_iff_eq, not_exists, ne_eq, and_assoc]

/-- `add` either reports the check that failed or appends the region (R132). -/
theorem addRegion_eq_ok_iff (rs : List Region) :
    addRegion started bus regions t name base = .ok rs ↔
      addCheck started bus regions t name base = none ∧ rs = regions ++ [newRegion t name base] := by
  unfold addRegion
  split <;> simp [*, eq_comm]

end

/-- Settles O9: `add` succeeds when `addCheck` reports nothing, which is when each of its checks passes. -/
theorem addAcceptsExactlyLawfulWindows : Obligations.AddAcceptsExactlyLawfulWindows := by
  intro started bus regions t name base
  refine ⟨?_, fun rs h => ((addRegion_eq_ok_iff ..).1 h).2⟩
  rw [addRegion_eq_ok_iff, and_iff_left rfl, addCheck_eq_none_iff]

/-! Lawful maps -/

/-- The checks of R132 that a region passes or fails by itself. -/
def LawfulWindow (bus : Bus) (r : Region) : Prop :=
  1 ≤ r.size ∧ r.granularity = bus.granularity ∧ r.base + r.size ≤ 2 ^ bus.addrBits ∧
    (bus = .main → r.base % 4 = 0 ∧ r.size % 4 = 0) ∧ r.base % 2 ^ clog2 r.size = 0

/-- Two regions can stand in one map: their names differ (R139) and their windows share no address (R133). -/
def Compatible (x r : Region) : Prop :=
  x.name ≠ r.name ∧ (r.base + r.size ≤ x.base ∨ x.base + x.size ≤ r.base)

theorem addCheck_regionPort_eq_none_iff (bus : Bus) (done : List Region) (r : Region) :
    addCheck false bus done (regionPort bus r) r.name r.base = none ↔
      LawfulWindow bus r ∧ ∀ x ∈ done, Compatible x r := by
  simp only [addCheck_eq_none_iff, regionPort, LawfulWindow, Compatible, forall_and, true_and, and_assoc]

theorem regionsError_eq_none_iff (bus : Bus) (done todo : List Region) :
    regionsError bus done todo = none ↔
      (∀ r ∈ todo, LawfulWindow bus r) ∧ (∀ x ∈ done, ∀ r ∈ todo, Compatible x r) ∧ todo.Pairwise Compatible := by
  induction todo generalizing done with
  | nil => simp [regionsError]
  | cons r todo ih =>
    rw [regionsError_cons, addCheck_regionPort_eq_none_iff, ih]
    simp only [List.forall_mem_cons, List.forall_mem_append, List.pairwise_cons, forall_and]
    tauto

/-- A map is accepted when each window is lawful and each two are compatible, in whatever order they come. -/
theorem mapError_eq_none_iff (bus : Bus) (map : List Region) :
    regionsError bus [] map = none ↔ (∀ r ∈ map, LawfulWindow bus r) ∧ map.Pairwise Compatible := by
  simp [regionsError_eq_none_iff]

/-- A map that lists lawful windows in the order of their addresses is accepted. -/
theorem mapError_of_sorted {bus : Bus} {map : List Region} (hlawful : ∀ r ∈ map, LawfulWindow bus r)
    (hsorted : map.Pairwise fun x r => x.name ≠ r.name ∧ x.base + x.size ≤ r.base) : regionsError bus [] map = none :=
  (mapError_eq_none_iff bus map).2 ⟨hlawful, hsorted.imp fun ⟨hname, hend⟩ => ⟨hname, .inr hend⟩⟩

theorem compatible_of_accepted {cfg : Config} (h : configError cfg = none) (bus : Bus) :
    (cfg.map bus).Pairwise Compatible := by
  obtain ⟨-, hmain, hcsr, -⟩ := (configError_none_iff cfg).1 h
  cases bus with
  | main => exact ((mapError_eq_none_iff _ _).1 hmain).2
  | csr => exact ((mapError_eq_none_iff _ _).1 hcsr).2

theorem Compatible.not_both_contain {x r : Region} (h : Compatible x r) {a : Nat}
    (hx : x.base ≤ a ∧ a < x.base + x.size) (hr : r.base ≤ a ∧ a < r.base + r.size) : False := by
  obtain ⟨-, hapart⟩ := h
  omega

/-- In a map of compatible regions the place of the one that contains an address is determined. -/
theorem place_unique {map : List Region} (hmap : map.Pairwise Compatible) {a i j : Nat} {r x : Region}
    (hi : map[i]? = some r) (hr : r.base ≤ a ∧ a < r.base + r.size)
    (hj : map[j]? = some x) (hx : x.base ≤ a ∧ a < x.base + x.size) : i = j := by
  obtain ⟨hli, rfl⟩ := List.getElem?_eq_some_iff.1 hi
  obtain ⟨hlj, rfl⟩ := List.getElem?_eq_some_iff.1 hj
  rw [List.pairwise_iff_getElem] at hmap
  rcases lt_trichotomy i j with hlt | heq | hgt
  · exact ((hmap i j hli hlj hlt).not_both_contain hr hx).elim
  · exact heq
  · exact ((hmap j i hlj hli hgt).not_both_contain hx hr).elim

/-- Settles O8: some region is routed to, since one contains the address, and its place is that one's
(`place_unique`). -/
theorem acceptedMapServesNoAddressTwice : Obligations.AcceptedMapServesNoAddressTwice := by
  intro cfg bus a i r hc hi hbase hend
  cases hroute : route (cfg.map bus) a with
  | none => exact absurd ⟨hbase, hend⟩ ((routeFrom_eq_none_iff _ 0 a).1 hroute r (List.mem_of_getElem? hi))
  | some p =>
    obtain ⟨j, x⟩ := p
    obtain ⟨hj, hx⟩ := route_some hroute
    obtain rfl := place_unique (compatible_of_accepted hc bus) hi ⟨hbase, hend⟩ hj hx
    rw [hi] at hj
    rw [Option.some.inj hj]

/-! Start (R137) -/

theorem addTarget_started {s : State} (h : s.started = true) (bus : Bus) (t : TargetPort) (name : String) (base : Nat) :
    addTarget s bus t name base = .refused (.construction (.lateRegistration name)) := by
  simp [addTarget, addRegion, addCheck, h]

theorem addInitiator_started {s : State} (h : s.started = true) (p : InitiatorPort) :
    addInitiator s p = .refused (.construction (.lateRegistration p.name)) := by
  simp [addInitiator, initiatorCheck, h]

/-- A cycle starts the fabric unless its edge is a reset, and ends no start. -/
@[simp] theorem fabricCycle_started (s : State) (shared : MainPort) (beat : CsrPort) :
    (fabricCycle s shared beat).started = (s.started || !s.input.rst) := by
  cases hr : s.input.rst with
  | true => simp [fabricCycle_reset _ _ hr]
  | false => simp [fabricCycle_run _ _ hr]

/-- Settles O11: both registrations check `started` first, and a step is a cycle (`fabricCycle_started`). -/
theorem registrationAfterStartIsRefused : Obligations.RegistrationAfterStartIsRefused := by
  refine ⟨fun s bus t name base h => addTarget_started h bus t name base, fun s p h => addInitiator_started h p, ?_⟩
  intro s t h
  obtain ⟨-, shared, beat, rfl⟩ := step_next h
  simp

/-! Configurations that do not start (R142, R144) -/

theorem step_refused {s : State} {e : BuildError} (h : configError s.cfg = some e) :
    step s = .refused (.construction e) := by
  simp [step, h]

/-- Settles O14: `step` looks at the configuration first. -/
theorem refusedConfigurationRunsNoCycle : Obligations.RefusedConfigurationRunsNoCycle :=
  fun _ _ h => step_refused h

theorem configError_noInitiator {cfg : Config} (hini : cfg.initiators = [])
    (hmain : regionsError .main [] cfg.mainMap = none) (hcsr : regionsError .csr [] cfg.csrMap = none) :
    configError cfg = some .noInitiator := by
  simp [configError, hini, hmain, hcsr]

theorem configError_of_no_initiators {cfg : Config} (hini : cfg.initiators = []) : ∃ e, configError cfg = some e := by
  refine Option.ne_none_iff_exists'.1 fun hc => ?_
  have hn := n_pos_of_accepted hc
  simp [Config.n, hini] at hn

/-- Initiators of the main bus's shape pass the checks of R141 before start. -/
theorem initiatorCheck_of_shape {p : InitiatorPort} (h : p.dataWidth = 32 ∧ p.granularity = 8) :
    initiatorCheck false p = none := by
  simp [initiatorCheck, Bus.width, Bus.granularity, h]

theorem configError_of_lawful {cfg : Config} (hne : cfg.initiators ≠ [])
    (hini : ∀ p ∈ cfg.initiators, p.dataWidth = 32 ∧ p.granularity = 8)
    (hmain : regionsError .main [] cfg.mainMap = none) (hcsr : regionsError .csr [] cfg.csrMap = none) :
    configError cfg = none :=
  (configError_none_iff cfg).2
    ⟨List.findSome?_eq_none_iff.2 fun p hp => initiatorCheck_of_shape (hini p hp), hmain, hcsr, hne⟩

/-- Settles O13: no configuration without an initiator is accepted, and with one the empty maps are lawful. -/
theorem noInitiatorNoStart : Obligations.NoInitiatorNoStart := by
  refine ⟨fun s hini hmain hcsr => step_refused (configError_noInitiator hini hmain hcsr), fun s hini => ?_,
    fun ini hne hini => configError_of_lawful hne hini rfl rfl, fun a => rfl⟩
  obtain ⟨e, he⟩ := configError_of_no_initiators hini
  exact ⟨e, step_refused he⟩

/-! The configuration of this hardware (R145) -/

/-- A base aligned to a power of two that the size does not pass is aligned to the size's own window (R134). -/
theorem aligned_of_le_two_pow {base size : Nat} (k : Nat) (hsize : size ≤ 2 ^ k) (hbase : 2 ^ k ∣ base) :
    base % 2 ^ clog2 size = 0 :=
  Nat.mod_eq_zero_of_dvd ((pow_dvd_pow 2 ((clog2_le_iff size k).2 hsize)).trans hbase)

/-- The window lies within an aligned block of `2^k` bytes, as 00_scope.md R11 bounds each OPEN size. -/
theorem lawfulWindow_mainRegion (k : Nat) (name : String) {base size : Nat} (target : Target) (hpos : 1 ≤ size)
    (hsize : size ≤ 2 ^ k) (hbase : 2 ^ k ∣ base) (hend : base + size ≤ 2 ^ 32) (hb : base % 4 = 0) (hs : size % 4 = 0) :
    LawfulWindow .main (mainRegion name base size target) :=
  ⟨hpos, rfl, hend, fun _ => ⟨hb, hs⟩, aligned_of_le_two_pow k hsize hbase⟩

theorem lawfulWindow_csrRegion (k : Nat) (name : String) {base size : Nat} (hpos : 1 ≤ size)
    (hsize : size ≤ 2 ^ k) (hbase : 2 ^ k ∣ base) (hend : base + size ≤ 2 ^ 28) :
    LawfulWindow .csr (csrRegion name base size) :=
  ⟨hpos, rfl, hend, nofun, aligned_of_le_two_pow k hsize hbase⟩

section
variable {o : OpenSizes} (ho : openSizesOk o = true)
include ho

theorem hardwareMainMap_accepted : regionsError .main [] (hardwareMainMap o) = none := by
  obtain ⟨hflash0, hflash, hflash4, hdebug0, hdebug, hdebug4, -⟩ := of_decide_eq_true ho
  apply mapError_of_sorted
  · simp only [hardwareMainMap, List.forall_mem_cons, flashBase, sramBase, sramSize, debugBase, csrBase, csrWindowSize]
    exact ⟨lawfulWindow_mainRegion 28 _ _ hflash0 hflash (by decide) (by omega) rfl hflash4,
      lawfulWindow_mainRegion 28 _ _ (by decide) (by decide) (by decide) (by decide) rfl rfl,
      lawfulWindow_mainRegion 28 _ _ hdebug0 hdebug (by decide) (by omega) rfl hdebug4,
      lawfulWindow_mainRegion 28 _ _ (by decide) (by decide) (by decide) (by decide) rfl rfl, nofun⟩
  · have hends : (o.flash ≤ 0x10000000 ∧ o.flash ≤ 0xa0000000 ∧ o.flash ≤ 0xb0000000) ∧
        0xa0000000 + o.debug ≤ 0xb0000000 := by omega
    simpa [hardwareMainMap, mainRegion, flashBase, sramBase, sramSize, debugBase, csrBase, csrWindowSize] using hends

theorem hardwareCsrMap_accepted : regionsError .csr [] (hardwareCsrMap o) = none := by
  obtain ⟨-, -, -, -, -, -, huart0, huart, hid0, hid⟩ := of_decide_eq_true ho
  apply mapError_of_sorted
  · simp only [hardwareCsrMap, List.forall_mem_cons, gpioBase, gpioCsrSize, uartBase, idBase]
    exact ⟨lawfulWindow_csrRegion 24 _ (by decide) (by decide) (by decide) (by decide),
      lawfulWindow_csrRegion 25 _ huart0 huart (by decide) (by omega),
      lawfulWindow_csrRegion 26 _ hid0 hid (by decide) (by omega), nofun⟩
  · have hends : 0x02000000 + o.uart ≤ 0x04000000 := by omega
    simpa [hardwareCsrMap, csrRegion, gpioBase, gpioCsrSize, uartBase, idBase] using hends

end

/-- Settles O12: both maps are lawful for all sizes within R11, and initiators of the bus's shape are accepted. -/
theorem hardwareConfigurationIsAccepted : Obligations.HardwareConfigurationIsAccepted := by
  intro o ini ho hne hini
  exact configError_of_lawful hne hini (hardwareMainMap_accepted ho) (hardwareCsrMap_accepted ho)

end Sys2Proof.Machine
end

section
/-! The main Decoder (41_decoder.md): rebasing, the port a request is driven on, and how the main-bus kinds complete. -/

namespace Sys2Proof.Machine

/-! Rebasing (R162) -/

theorem lawfulWindow_of_accepted {cfg : Config} (h : configError cfg = none) {r : Region} (hr : r ∈ cfg.mainMap) :
    LawfulWindow .main r := by
  obtain ⟨-, hmain, -, -⟩ := (configError_none_iff cfg).1 h
  exact ((mapError_eq_none_iff _ _).1 hmain).1 r hr

/-- A lawful main-bus window is made of whole words, so the words in it are those between its base and its end. -/
theorem wordAddr_bounds {r : Region} {adr : WordAddr} (hr : LawfulWindow .main r)
    (hin : r.base ≤ byteAddr adr ∧ byteAddr adr < r.base + r.size) :
    r.base / 4 ≤ adr.toNat ∧ adr.toNat - r.base / 4 < r.size / 4 := by
  obtain ⟨-, -, -, hwords, -⟩ := hr
  obtain ⟨hbase, hsize⟩ := hwords rfl
  rw [byteAddr] at hin
  omega

/-- An offset in the region fits the port's address field, so rebasing cuts nothing off (30_encoding.md R102). -/
theorem rebaseWord_toNat {r : Region} {adr : WordAddr} (hlow : r.base / 4 ≤ adr.toNat)
    (hin : adr.toNat - r.base / 4 < r.size / 4) : (rebaseWord r adr).toNat = adr.toNat - r.base / 4 := by
  have hbase : (BitVec.ofNat 30 (r.base / 4)).toNat = r.base / 4 :=
    Nat.mod_eq_of_lt (hlow.trans_lt adr.isLt)
  have hsub : (adr - BitVec.ofNat 30 (r.base / 4)).toNat = adr.toNat - r.base / 4 := by
    rw [BitVec.toNat_sub_of_le (by rwa [BitVec.le_def, hbase]), hbase]
  have hfield : r.size / 4 ≤ 2 ^ mainAdrBits r := (clog2_le_iff _ _).1 le_rfl
  rw [rebaseWord, onField_toNat, hsub, Nat.mod_eq_of_lt (hin.trans_le hfield)]

/-! The target ports (R163) -/

theorem decoderRoute_of_req (cfg : Config) {shared : MainPort} (h : shared.req = true) :
    decoderRoute cfg shared = route cfg.mainMap (byteAddr shared.q.adr) := by
  simp [decoderRoute, h]

/-- A routed request stands on the port of a region of the map. -/
theorem decoderRoute_place {cfg : Config} {shared : MainPort} {k : Nat} {r : Region}
    (h : decoderRoute cfg shared = some (k, r)) : cfg.mainMap[k]? = some r := by
  rw [decoderRoute_of_req cfg (decoderRoute_some h)] at h
  exact (route_some h).1

/-- Nothing is driven on a port but the request routed to it, and that one only to a region outside the fabric. -/
theorem targetPort_cases (draw bits : Nat) (routed : Option (Nat × Region)) (shared : MainPort) (i : Nat) :
    (∃ r, routed = some (i, r) ∧ r.target = .external ∧ targetPort draw bits routed shared i =
        { req := true, q := { shared.q with adr := rebaseWord r shared.q.adr } }) ∨
      targetPort draw bits routed shared i = idleMain draw (.target i) bits := by
  rcases routed with - | ⟨k, r⟩
  · exact .inr rfl
  · by_cases h : k = i ∧ r.target = .external
    · obtain ⟨rfl, hr⟩ := h
      exact .inl ⟨r, rfl, hr, targetPort_selected draw bits k shared hr⟩
    · exact .inr (if_neg h)

section
variable {s : State} {shared : MainPort} {beat : CsrPort}

/-- There is a port for each region of the main map and no other. -/
theorem signals_target_some {i : Nat} {p : MainPort} (h : (signals s shared beat).targets[i]? = some p) :
    i < s.cfg.mainMap.length ∧
      p = targetPort s.draw (fieldBits mainAdrBits s.cfg.mainMap i) (decoderRoute s.cfg shared) shared i := by
  have hi : i < s.cfg.mainMap.length := by
    obtain ⟨hlt, -⟩ := List.getElem?_eq_some_iff.1 h
    simpa [signals] using hlt
  rw [signals_target s shared beat hi] at h
  exact ⟨hi, (Option.some.inj h).symm⟩

/-- The address on a port fits its field, whether the port is driven or not (30_encoding.md R102). -/
theorem signals_target_adr_lt {i : Nat} {r : Region} {p : MainPort} (hr : s.cfg.mainMap[i]? = some r)
    (h : (signals s shared beat).targets[i]? = some p) : p.q.adr.toNat < 2 ^ mainAdrBits r := by
  obtain ⟨-, rfl⟩ := signals_target_some h
  rw [fieldBits_some hr]
  rcases targetPort_cases s.draw (mainAdrBits r) (decoderRoute s.cfg shared) shared i with ⟨x, hroute, -, e⟩ | e
  · obtain rfl : r = x := Option.some.inj (hr.symm.trans (decoderRoute_place hroute))
    rw [e]
    exact rebaseWord_lt r _
  · rw [e]
    exact idleMain_adr_lt _ _ _

/-- The port of the region a request is routed to carries it, rebased and otherwise unchanged. -/
theorem signals_target_selected {k : Nat} {r : Region} (hroute : decoderRoute s.cfg shared = some (k, r))
    (hr : r.target = .external) :
    (signals s shared beat).targets[k]? =
      some { req := true, q := { shared.q with adr := rebaseWord r shared.q.adr } } := by
  obtain ⟨hk, -⟩ := List.getElem?_eq_some_iff.1 (decoderRoute_place hroute)
  rw [signals_target s shared beat hk, hroute, targetPort_selected _ _ _ _ hr]

/-- A port that is not the selected region's own carries no request. -/
theorem signals_target_unselected {i : Nat} {p : MainPort} (h : (signals s shared beat).targets[i]? = some p)
    (hroute : ∀ r, decoderRoute s.cfg shared = some (i, r) → r.target ≠ .external) : p.req = false := by
  obtain ⟨-, rfl⟩ := signals_target_some h
  rcases targetPort_cases s.draw (fieldBits mainAdrBits s.cfg.mainMap i) (decoderRoute s.cfg shared) shared i with
    ⟨r, hi, hr, -⟩ | e
  · exact absurd hr (hroute r hi)
  · rw [e, idleMain_req]

end

/-- Settles O22: the offset is exact because the windows of an accepted map are whole words (`wordAddr_bounds`), and a
port carries a rebased or a free address, either cut to its field. -/
theorem rebasingStaysInTheWindow : Obligations.RebasingStaysInTheWindow := by
  refine ⟨fun cfg adr k r hc hroute => ?_, fun s t k r p h hr hp => ?_⟩
  · obtain ⟨hk, hin⟩ := route_some hroute
    obtain ⟨hlow, hoffset⟩ := wordAddr_bounds (lawfulWindow_of_accepted hc (List.mem_of_getElem? hk)) hin
    have hexact := rebaseWord_toNat hlow hoffset
    exact ⟨hlow, hexact, hexact.trans_lt hoffset, rebaseWord_lt r adr⟩
  · obtain ⟨-, shared, beat, rfl⟩ := step_next h
    rw [fabricCycle_sig] at hp
    exact signals_target_adr_lt (s := takeBench s) hr hp

/-! The CsrBridge's input (R163) -/

theorem bridgeInput_selected (draw k : Nat) {r : Region} (shared : MainPort) (h : r.target = .bridge) :
    bridgeInput draw (some (k, r)) shared =
      { req := true, adr := (rebaseWord r shared.q.adr).setWidth 26, we := shared.q.we, sel := shared.q.sel,
        datW := shared.q.datW } := by
  simp [bridgeInput, h]

/-- A request that is routed to no CsrBridge region does not reach the CsrBridge. -/
theorem bridgeInput_unselected {draw : Nat} {routed : Option (Nat × Region)} {shared : MainPort}
    (h : ∀ k r, routed = some (k, r) → r.target ≠ .bridge) : (bridgeInput draw routed shared).req = false := by
  rw [← Bool.not_eq_true, bridgeInput_req]
  rintro ⟨k, r, hroute, hr⟩
  exact h k r hroute hr

/-- Without a request or a region nothing is driven (R163). -/
theorem signals_unrouted {s : State} {shared : MainPort} (beat : CsrPort) (h : decoderRoute s.cfg shared = none) :
    (signals s shared beat).bridgeIn.req = false ∧
      ∀ (i : Nat) (p : MainPort), (signals s shared beat).targets[i]? = some p → p.req = false :=
  ⟨bridgeInput_unselected (by simp [h]), fun _ _ hp => signals_target_unselected hp (by simp [h])⟩

/-- A routed request is driven on its region's own port or on the CsrBridge's input, and on no other (R163). -/
theorem signals_routed {s : State} {shared : MainPort} (beat : CsrPort) {k : Nat} {r : Region}
    (h : decoderRoute s.cfg shared = some (k, r)) :
    (r.target = .external →
      (signals s shared beat).targets[k]? =
          some { req := true, q := { shared.q with adr := rebaseWord r shared.q.adr } } ∧
        (signals s shared beat).bridgeIn.req = false) ∧
      (r.target = .bridge →
        (signals s shared beat).bridgeIn =
          { req := true, adr := (rebaseWord r shared.q.adr).setWidth 26, we := shared.q.we, sel := shared.q.sel,
            datW := shared.q.datW }) ∧
      ∀ (i : Nat) (p : MainPort), (signals s shared beat).targets[i]? = some p → i ≠ k ∨ r.target = .bridge →
        p.req = false := by
  refine ⟨fun hr => ⟨signals_target_selected h hr, bridgeInput_unselected (by simp [h, hr])⟩, fun hr => ?_,
    fun i p hp hi => signals_target_unselected hp fun x hx => ?_⟩
  · rw [signals_bridgeIn, h, bridgeInput_selected _ _ _ hr]
  · cases h.symm.trans hx
    rcases hi with hi | hr
    · exact absurd rfl hi
    · simp [hr]

/-- Settles O23: a step is a cycle, whose signals drive a routed request on its region's side alone
(`signals_routed`), and nothing without one (`signals_unrouted`). -/
theorem decoderDrivesExactlyTheSelectedTarget : Obligations.DecoderDrivesExactlyTheSelectedTarget := by
  intro s t h
  obtain ⟨-, shared, beat, rfl⟩ := step_next h
  simp only [fabricCycle_sig, signals_shared]
  refine ⟨fun k r hreq hroute => ?_, fun hnone => ?_⟩
  · exact signals_routed (s := takeBench s) beat ((decoderRoute_of_req s.cfg hreq).trans hroute)
  · refine signals_unrouted (s := takeBench s) beat ?_
    rcases hnone with hreq | hroute
    · exact decoderRoute_idle s.cfg hreq
    · simp [decoderRoute, hroute]

/-! The response path (R164, R165) -/

theorem decoderRsp_external (draw k : Nat) {r : Region} (decErr : Bool) (inp : CycleInput) (brRsp : BusRsp)
    (h : r.target = .external) : decoderRsp draw (some (k, r)) decErr inp brRsp = mainAnswer draw inp k := by
  simp [decoderRsp, h]

/-- The Decoder looks at the answer of the selected region's target and at no other (R165). -/
theorem decoderRsp_congr {draw : Nat} {routed : Option (Nat × Region)} {decErr : Bool} {inp inp' : CycleInput}
    {brRsp : BusRsp}
    (h : ∀ k r, routed = some (k, r) → r.target = .external → inp'.main[k]? = inp.main[k]?) :
    decoderRsp draw routed decErr inp' brRsp = decoderRsp draw routed decErr inp brRsp := by
  rcases routed with - | ⟨k, r⟩
  · rfl
  · cases hr : r.target with
    | bridge => simp [decoderRsp, hr]
    | external =>
      rw [decoderRsp_external _ _ _ _ _ hr, decoderRsp_external _ _ _ _ _ hr]
      simp only [mainAnswer, List.getD_eq_getElem?_getD, h k r rfl hr]

/-- The state whose main-bus targets drive other answers in the current cycle. -/
def withMainAnswers (s : State) (other : List BusRsp) : State :=
  { s with inputs := { s.input with main := other } :: s.inputs.tail }

section
variable (s : State) (other : List BusRsp)

@[simp] theorem withMainAnswers_input : (withMainAnswers s other).input = { s.input with main := other } := rfl
@[simp] theorem withMainAnswers_cfg : (withMainAnswers s other).cfg = s.cfg := rfl
@[simp] theorem sharedBus_withMainAnswers : sharedBus (withMainAnswers s other) = sharedBus s := rfl

/-- An edge reads the targets' answers through the cycle's signals alone. -/
theorem edge_withMainAnswers (sig : Signals) : edge (withMainAnswers s other) sig = edge s sig := rfl

/-- With the same response from the Decoder the answers of main-bus targets leave no trace in the cycle. -/
theorem idleCycle_withMainAnswers
    (h : (ownSignals (withMainAnswers s other)).decRsp = (ownSignals s).decRsp) :
    idleCycle (withMainAnswers s other) = idleCycle s := by
  have hsig : ownSignals (withMainAnswers s other) = ownSignals s := by
    simp only [ownSignals, signals, sharedBus_withMainAnswers] at h ⊢
    rw [h]
    rfl
  calc idleCycle (withMainAnswers s other)
      = edge (withMainAnswers s other) (ownSignals (withMainAnswers s other)) := rfl
    _ = edge s (ownSignals s) := by rw [hsig, edge_withMainAnswers]

end

/-- Settles O24: the Decoder's response is the same (`decoderRsp_congr`), and the answers reach nothing else. -/
theorem unselectedMainTargetsAreIgnored : Obligations.UnselectedMainTargetsAreIgnored := by
  intro s inp rest other hb hin h
  have hstate : { s with inputs := { inp with main := other } :: rest } = withMainAnswers s other := by
    simp [withMainAnswers, input_cons hin, hin]
  have hrsp : (ownSignals (withMainAnswers s other)).decRsp = (ownSignals s).decRsp :=
    decoderRsp_congr (inp' := (withMainAnswers s other).input) (by simpa [input_cons hin] using h)
  rw [hstate]
  cases hc : configError s.cfg with
  | some e => rw [step_refused hc, step_refused (s := withMainAnswers s other) hc]
  | none =>
    rw [step_eq_cycle hc hb, step_eq_cycle (s := withMainAnswers s other) hc hb, idleCycle_withMainAnswers s other hrsp]

/-! Completion of the main-bus kinds (R160, R161, R166, R196) -/

theorem exec_mainBus_next {i : Instr} {adr : WordAddr} {sel : Lanes} {datW : Word} (s : State)
    (hi : i = .wbRead adr sel datW ∨ i = .wbWrite adr sel datW) :
    ∃ we, exec i s = .next (fabricCycle s (onShared adr we sel datW) (csrBus s)) := by
  rcases hi with rfl | rfl
  · exact ⟨false, rfl⟩
  · exact ⟨true, rfl⟩

section
variable {s : State} {g : Nat} (hg : s.grant = some g)
include hg

/-- The grant ends with the completion of its transaction, and not before (R196). -/
theorem runEdge_grant_of_granted (sig : Signals) :
    (runEdge s sig).grant = if completes sig.decRsp.ack sig.decRsp.err then none else some g := by
  rw [runEdge_grant, hg]
  rfl

/-- The granted initiator sees the Decoder's response (42_arbiter.md R195). -/
theorem signals_iniRsp_granted (shared : MainPort) (beat : CsrPort) (hn : g < s.cfg.n) :
    (signals s shared beat).iniRsp[g]? = some (signals s shared beat).decRsp := by
  rw [signals_iniRsp s shared beat hn, hg, arbiterReturn_granted]

end

/-- Settles O25: nothing is driven (`signals_unrouted`), and what answers is decided by whether the error is due. -/
theorem unmappedRequestErrsInItsSecondCycle : Obligations.UnmappedRequestErrsInItsSecondCycle := by
  intro i adr sel datW s g hi hrst hg hn hroute
  obtain ⟨we, he⟩ := exec_mainBus_next s hi
  rw [fabricCycle_run _ _ hrst] at he
  have hunrouted : decoderRoute s.cfg (onShared adr we sel datW) = none := hroute
  obtain ⟨hbridge, htargets⟩ := signals_unrouted (csrBus s) hunrouted
  refine ⟨_, he, hbridge, htargets, ?_⟩
  rw [runEdge_sig, signals_iniRsp_granted hg _ _ hn, runEdge_grant_of_granted hg]
  refine ⟨fun hd => ?_, fun hd => ?_⟩
  · have hrsp : (signals s (onShared adr we sel datW) (csrBus s)).decRsp = noAnswer s.draw .decoderNone := by
      simp [decoderRsp, hroute, hd]
    rw [hrsp]
    exact ⟨⟨_, rfl, rfl, rfl⟩, dueError_eq_true.2 ⟨rfl, hroute, hd⟩, rfl⟩
  · have hrsp : (signals s (onShared adr we sel datW) (csrBus s)).decRsp = synthesizedError := by
      simp [decoderRsp, hroute, hd]
    rw [hrsp]
    exact ⟨rfl, by simp [dueError, hd], rfl⟩

/-- The cycle in which the target of a mapped request answers: the request is issued to that target, and the response
goes to the granted initiator and ends the grant (R164, R167). -/
theorem mappedRequest_completes {adr : WordAddr} {we : Bool} {sel : Lanes} {datW : Word} {s t : State} {g k : Nat}
    {r : Region} {a : BusRsp} (ht : fabricCycle s (onShared adr we sel datW) (csrBus s) = t)
    (hrst : s.input.rst = false) (hg : s.grant = some g) (hn : g < s.cfg.n)
    (hroute : route s.cfg.mainMap (byteAddr adr) = some (k, r)) (hr : r.target = .external)
    (ha : s.input.main[k]? = some a) (hc : a.ack = true ∨ a.err = true) :
    t.sig.targets[k]? = some { req := true, q := { adr := rebaseWord r adr, we := we, sel := sel, datW := datW } } ∧
      (∀ (i : Nat) (p : MainPort), t.sig.targets[i]? = some p → i ≠ k → p.req = false) ∧
      t.sig.iniRsp[g]? = some a ∧ t.grant = none ∧ t.decErr = false := by
  have hrouted : decoderRoute s.cfg (onShared adr we sel datW) = some (k, r) := hroute
  obtain ⟨hdriven, -, hothers⟩ := signals_routed (csrBus s) hrouted
  have hrsp : (signals s (onShared adr we sel datW) (csrBus s)).decRsp = a := by
    rw [signals_decRsp, hrouted, decoderRsp_external _ _ _ _ _ hr]
    simp [mainAnswer, ha]
  have hcompletes : completes a.ack a.err = true := by simpa [completes] using hc
  rw [← ht, fabricCycle_run _ _ hrst, runEdge_sig, signals_iniRsp_granted hg _ _ hn, runEdge_grant_of_granted hg,
    hrsp]
  exact ⟨(hdriven hr).1, fun i p hp hi => hothers i p hp (.inl hi), rfl, if_pos hcompletes,
    by simp [dueError, hroute]⟩

/-- Settles O26: `mappedRequest_completes` with a read on the shared bus. -/
theorem readOfAMappedTargetCompletes : Obligations.ReadOfAMappedTargetCompletes := by
  intro adr sel datW s g k r a hrst hg hn hroute hr ha hc
  exact ⟨_, rfl, mappedRequest_completes rfl hrst hg hn hroute hr ha hc⟩

/-- Settles O27: `mappedRequest_completes` with a write on the shared bus. -/
theorem writeOfAMappedTargetCompletes : Obligations.WriteOfAMappedTargetCompletes := by
  intro adr sel datW s g k r a hrst hg hn hroute hr ha hc
  exact ⟨_, rfl, mappedRequest_completes rfl hrst hg hn hroute hr ha hc⟩

end Sys2Proof.Machine
end

section
/-! The Arbiter (42_arbiter.md): whom selection answers, how long a requester waits, when a grant is made and ends, and
what the granted initiator alone puts on the shared bus and sees there. -/

namespace Sys2Proof.Machine

/-! The search order (R191) -/

/-- Cyclic order from any pointer reaches every initiator. -/
theorem exists_place {n i : Nat} (last : Nat) (hi : i < n) : ∃ j, j < n ∧ i = (last + 1 + j) % n := by
  have hr : (last + 1) % n < n := Nat.mod_lt _ (by omega)
  refine ⟨(i + (n - (last + 1) % n)) % n, Nat.mod_lt _ (by omega), ?_⟩
  symm
  calc (last + 1 + (i + (n - (last + 1) % n)) % n) % n
      = ((last + 1) % n + (i + (n - (last + 1) % n))) % n := by rw [Nat.add_mod_mod, Nat.mod_add_mod]
    _ = (i + n) % n := by congr 1; omega
    _ = i := by rw [Nat.add_mod_right, Nat.mod_eq_of_lt hi]

theorem mem_searchOrder {n last i : Nat} : i ∈ searchOrder n last ↔ i < n := by
  simp only [searchOrder, List.mem_map, List.mem_range]
  constructor
  · rintro ⟨j, hj, rfl⟩
    exact Nat.mod_lt _ (by omega)
  · intro hi
    obtain ⟨j, hj, e⟩ := exists_place last hi
    exact ⟨j, hj, e.symm⟩

/-- The pointer's own initiator has the last place. -/
theorem place_of_pointer {n last j : Nat} (hl : last < n) (hj : j < n) (h : last = (last + 1 + j) % n) :
    j + 1 = n := by
  by_cases hwrap : last + 1 + j < n
  · rw [Nat.mod_eq_of_lt hwrap] at h
    omega
  · rw [Nat.mod_eq_sub_mod (by omega), Nat.mod_eq_of_lt (by omega)] at h
    omega

/-- With the pointer at `N - 1` each initiator's place is its index. -/
theorem place_of_last_pointer {n last j : Nat} (hl : last + 1 = n) (hj : j < n) : (last + 1 + j) % n = j := by
  rw [hl, Nat.add_mod_left, Nat.mod_eq_of_lt hj]

/-! Selection (R191) -/

section
variable {n last i : Nat} {pending : Nat → Bool}

theorem select_eq_some_iff :
    select n last pending = some i ↔
      ∃ j, j < n ∧ i = (last + 1 + j) % n ∧ pending i = true ∧
        ∀ j', j' < j → pending ((last + 1 + j') % n) = false := by
  simp only [select, List.find?_eq_some_iff_getElem, searchOrder, List.length_map, List.length_range, List.getElem_map,
    List.getElem_range, Bool.not_eq_true']
  constructor
  · rintro ⟨hp, j, hj, e, hfirst⟩
    exact ⟨j, hj, e.symm, hp, hfirst⟩
  · rintro ⟨j, hj, e, hp, hfirst⟩
    exact ⟨hp, j, hj, e.symm, hfirst⟩

theorem select_eq_none_iff : select n last pending = none ↔ ∀ i, i < n → pending i = false := by
  simp only [select, List.find?_eq_none, mem_searchOrder, Bool.not_eq_true]

/-- Every other initiator stands before the pointer's own, so none of them requests when that one is selected. -/
theorem select_pointer_alone (hl : last < n) (h : select n last pending = some last) (hi : i < n) (hne : i ≠ last) :
    pending i = false := by
  obtain ⟨j, hj, e, -, hfirst⟩ := select_eq_some_iff.1 h
  have hlast : j + 1 = n := place_of_pointer hl hj e
  obtain ⟨d, hd, rfl⟩ := exists_place last hi
  have hplace : d ≠ j := by
    rintro rfl
    exact hne e.symm
  exact hfirst d (by omega)

theorem select_lowest (hl : last + 1 = n) (h : select n last pending = some i) {i' : Nat} (hi' : i' < i) :
    pending i' = false := by
  obtain ⟨j, hj, rfl, -, hfirst⟩ := select_eq_some_iff.1 h
  rw [place_of_last_pointer hl hj] at hi'
  simpa [place_of_last_pointer hl (hi'.trans hj)] using hfirst i' hi'

/-- A requester that is not selected moves up: the one selected, which is the next pointer, stood before it. -/
theorem select_or_nearer {d : Nat} (hd : d < n) (hi : i = (last + 1 + d) % n) (hp : pending i = true) :
    select n last pending = some i ∨
      ∃ g d', select n last pending = some g ∧ d' < d ∧ i = (g + 1 + d') % n := by
  cases hs : select n last pending with
  | none =>
    have hquiet := select_eq_none_iff.1 hs i (hi ▸ Nat.mod_lt _ (by omega))
    rw [hp] at hquiet
    cases hquiet
  | some g =>
    obtain ⟨j, -, hg, -, hfirst⟩ := select_eq_some_iff.1 hs
    have hle : j ≤ d := by
      by_contra hlt
      have hquiet := hfirst d (by omega)
      rw [← hi, hp] at hquiet
      cases hquiet
    rcases hle.eq_or_lt with rfl | hlt
    · exact .inl (by rw [hi, hg])
    · refine .inr ⟨g, d - j - 1, rfl, by omega, ?_⟩
      rw [hi, hg, Nat.add_assoc (_ % n), Nat.mod_add_mod]
      congr 1
      omega

end

/-- Settles O16: selection finds the first requester of the search order (`select_eq_some_iff`), which holds every
initiator, the pointer's own last. -/
theorem selectFollowsRoundRobin : Obligations.SelectFollowsRoundRobin := by
  intro n last pending
  exact ⟨fun _ => select_eq_some_iff, select_eq_none_iff, fun hl h _ hi hne => select_pointer_alone hl h hi hne,
    fun hl _ h _ hi' => select_lowest hl h hi'⟩

/-! Bounded waiting (R199) -/

/-- Before arbitration `k` a steady requester has been granted, or its place is at most `N - 1 - k`. -/
theorem granted_or_nearer {n last i : Nat} {pending : Nat → Nat → Bool} (hi : i < n)
    (hp : ∀ k, pending k i = true) (k : Nat) :
    (∃ k', k' < k ∧ select n (pointerAfter n last pending k') (pending k') = some i) ∨
      ∃ d, d + k < n ∧ i = (pointerAfter n last pending k + 1 + d) % n := by
  induction k with
  | zero => exact .inr (exists_place last hi)
  | succ k ih =>
    rcases ih with ⟨k', hk', hs⟩ | ⟨d, hd, hplace⟩
    · exact .inl ⟨k', by omega, hs⟩
    · rcases select_or_nearer (by omega) hplace (hp k) with hs | ⟨g, d', hs, hd', hplace'⟩
      · exact .inl ⟨k, by omega, hs⟩
      · exact .inr ⟨d', by omega, by simpa [pointerAfter, hs] using hplace'⟩

/-- Settles O17: by `granted_or_nearer`, after `N` arbitrations no place is left to wait at. -/
theorem requesterIsGrantedWithinNArbitrations : Obligations.RequesterIsGrantedWithinNArbitrations := by
  intro n last i pending hi hp
  rcases granted_or_nearer (last := last) hi hp n with hgranted | ⟨d, hd, -⟩
  · exact hgranted
  · omega

/-! Grant and release (R192, R193, R196) -/

/-- A step outside reset is the running edge over the signals it records (45_fabric_step.md R294). -/
theorem step_run {s t : State} (h : step s = .next t) (hrst : s.input.rst = false) :
    t = runEdge (takeBench s) t.sig := by
  obtain ⟨-, shared, beat, rfl⟩ := step_next h
  rw [fabricCycle_sig]
  exact fabricCycle_run _ _ hrst

/-- While nobody is granted an edge arbitrates, and the pointer follows the grant. -/
theorem runEdge_ungranted {s : State} (sig : Signals) (hg : s.grant = none) :
    (runEdge s sig).grant = select s.cfg.n s.last (requesting s.draw s.input) ∧
      (runEdge s sig).last = (runEdge s sig).grant.getD s.last := by
  simp [grantNext, lastNext, hg]

/-- Settles O18: an edge arbitrates where nobody is granted (`runEdge_ungranted`), and elsewhere keeps the pointer and
ends the grant with the completion (`runEdge_granted`, `runEdge_grant_of_granted`). -/
theorem grantIsMadeAndReleasedAsStated : Obligations.GrantIsMadeAndReleasedAsStated := by
  intro s t h hrst
  have ht := step_run h hrst
  generalize t.sig = sig at ht ⊢
  subst ht
  refine ⟨fun hnone => ?_, fun g hg => ?_⟩
  · obtain ⟨hgrant, hlast⟩ := runEdge_ungranted (s := takeBench s) sig hnone
    refine ⟨hgrant, fun hn => ?_, fun g hg => ?_⟩
    · rw [hlast, hn]
      rfl
    · rw [hlast, hg]
      rfl
  · obtain ⟨hlast, -⟩ := runEdge_granted (takeBench s) sig hg
    rw [runEdge_grant_of_granted (s := takeBench s) hg sig]
    exact ⟨hlast, fun hc => if_pos (by simpa [completes] using hc),
      fun ha he => if_neg (by simp [completes, ha, he])⟩

/-! The granted initiator on the shared bus (R194, R195) -/

/-- Settles O19: without a bench the shared bus is what the Arbiter forwards (`sharedBus_granted`,
`sharedBus_ungranted`), and packing undoes unpacking. -/
theorem sharedBusCarriesTheGrantedRequest : Obligations.SharedBusCarriesTheGrantedRequest := by
  intro s t hb h
  obtain ⟨-, rfl⟩ := step_next_idleCycle hb h
  rw [idleCycle, fabricCycle_sig, signals_shared]
  refine ⟨fun g hg => ?_, sharedBus_ungranted⟩
  rw [sharedBus_granted hg]
  exact ⟨rfl, busReq_pack_unpack _⟩

/-- Settles O20: each `I[i]` carries what the Arbiter returns to it (`signals_iniRsp`): the Decoder's response,
or none. -/
theorem onlyTheGrantedInitiatorIsAnswered : Obligations.OnlyTheGrantedInitiatorIsAnswered := by
  intro s t h i hi
  obtain ⟨-, shared, beat, rfl⟩ := step_next h
  rw [fabricCycle_sig]
  refine ⟨_, signals_iniRsp (takeBench s) shared beat hi, fun hg => ?_, fun hg => ?_⟩
  · rw [takeBench_grant, hg, arbiterReturn_granted]
  · rw [takeBench_grant, arbiterReturn_other _ _ _ hg]
    exact ⟨rfl, rfl⟩

end Sys2Proof.Machine
end

section
/-! The CsrBridge (43_csr_bridge.md): what one cycle does in each of its phases, a wide transaction over all its cycles,
and what is left of it afterwards. -/

namespace Sys2Proof.Machine

/-! Bytes in a word (R67, R233) -/

/-- The beats of a wide transaction go to the four bytes of its word, in order (R233). -/
theorem beatAddr_toNat (o : BridgeAddr) (k : BeatIndex) : (beatAddr o k).toNat = 4 * o.toNat + k.toNat := by
  have hk : k.toNat < 2 ^ 2 := k.isLt
  rw [beatAddr, BitVec.toNat_append, ← Nat.shiftLeft_add_eq_or_of_lt hk, Nat.shiftLeft_eq]
  omega

theorem lane_setLane_same (w : Word) {k : Nat} (b : Byte) (hk : k < 4) : lane (setLane w k b) k = b := by
  apply BitVec.eq_of_getLsbD_eq
  intro i hi
  have hmask : (0xff#32).getLsbD i = true := by
    rw [BitVec.getLsbD_ofNat, show (0xff : Nat) = 2 ^ 8 - 1 from rfl, Nat.testBit_two_pow_sub_one]
    simp
    omega
  have hin : 8 * k + i < 32 := by omega
  simp only [lane_getLsbD, setLane, BitVec.getLsbD_or, BitVec.getLsbD_and, BitVec.getLsbD_not, BitVec.getLsbD_shiftLeft,
    BitVec.getLsbD_setWidth, Nat.add_sub_cancel_left, hmask, hin]
  simp [hi, show i < 32 by omega]

/-- The lanes below the cut come from the first word (R238). -/
theorem lane_mergeLanes_low (low high : Word) {j k : Nat} (h : j < k) :
    lane (mergeLanes k low high) j = lane low j := by
  apply BitVec.eq_of_getLsbD_eq
  intro i hi
  have hbelow : 8 * j + i < 8 * k := by omega
  by_cases hin : 8 * j + i < 32
  · simp [lane_getLsbD, mergeLanes, hbelow, hin]
  · simp [lane_getLsbD, BitVec.getLsbD_of_ge _ (8 * j + i) (not_lt.1 hin)]

theorem lane_getLsbD_sub (w : Word) {i j : Nat} (hl : 8 * j ≤ i) (hr : i < 8 * j + 8) :
    (lane w j).getLsbD (i - 8 * j) = w.getLsbD i := by
  have hin : i - 8 * j < 8 := by omega
  rw [lane_getLsbD, Nat.add_sub_cancel' hl, decide_eq_true hin, Bool.true_and]

/-- A word is its four lanes (R68). -/
theorem wordOfLanes_lanes (w : Word) : wordOfLanes (lane w 0) (lane w 1) (lane w 2) (lane w 3) = w := by
  apply BitVec.eq_of_getLsbD_eq
  intro i hi
  simp only [wordOfLanes, BitVec.getLsbD_append, Nat.sub_sub]
  split_ifs
  · exact lane_getLsbD_sub w (j := 0) (by omega) (by omega)
  · exact lane_getLsbD_sub w (j := 1) (by omega) (by omega)
  · exact lane_getLsbD_sub w (j := 2) (by omega) (by omega)
  · exact lane_getLsbD_sub w (j := 3) (by omega) (by omega)

/-! A request on the shared bus that is routed to the CsrBridge (R231, R232, R238) -/

/-- A step outside reset makes the CsrBridge's edge from the signals it records. -/
theorem step_br {s t : State} (h : step s = .next t) (hrst : s.input.rst = false) :
    t.br = bridgeNext s.br t.sig.bridgeIn t.sig.csrRsp :=
  congrArg State.br (step_run h hrst)

theorem bridgeNext_accept {b : Bridge} {bin : BridgePort} (rsp : BeatRsp) (hp : b.phase = .idle)
    (hr : bin.req = true) : bridgeNext b bin rsp = bridgeAccept b bin := by
  simp [bridgeNext, hp, hr]

theorem bridgeNext_done {b : Bridge} (bin : BridgePort) (rsp : BeatRsp) (hp : b.phase = .done) :
    bridgeNext b bin rsp = { b with phase := .idle } := by
  simp [bridgeNext, hp]

theorem csrBus_req_of_not_busy {s : State} (hp : s.br.phase ≠ .busy) : (csrBus s).req = false := by
  rw [← Bool.not_eq_true, csrBus, bridgeBeat_req]
  exact hp

/-- The CsrBridge's registers after the accept cycle (R231). -/
def acceptedBridge (o : BridgeAddr) (q : BusReq) (rbuf : Word) : Bridge :=
  { phase := .busy, k := 0, adr := o, we := q.we, dat := q.datW, sel := q.sel, rbuf := rbuf, err := false }

section
variable {s : State} {shared : MainPort} {k : Nat} {r : Region}
  (hroute : decoderRoute s.cfg shared = some (k, r)) (hr : r.target = .bridge)
include hroute hr

/-- The Decoder passes the CsrBridge's response on (41_decoder.md R164). -/
theorem signals_decRsp_bridge (beat : CsrPort) : (signals s shared beat).decRsp = bridgeRsp s.draw s.br := by
  simp [hroute, decoderRsp, hr]

theorem runEdge_br_accept (beat : CsrPort) (hp : s.br.phase = .idle) :
    (runEdge s (signals s shared beat)).br =
      acceptedBridge ((rebaseWord r shared.q.adr).setWidth 26) shared.q s.br.rbuf := by
  rw [runEdge_br, signals_bridgeIn, hroute, bridgeInput_selected _ _ _ hr, bridgeNext_accept _ hp rfl]
  rfl

variable {g : Nat} (hg : s.grant = some g)
include hg

/-- Before `Done` the wide transaction keeps the bus (R232, 42_arbiter.md R196). -/
theorem runEdge_grant_of_bridge (beat : CsrPort) (hp : s.br.phase ≠ .done) :
    (runEdge s (signals s shared beat)).grant = some g := by
  rw [runEdge_grant_of_granted hg, decRsp_of_bridge_not_done beat hroute hr hp]
  rfl

/-- In `Done` the granted initiator gets the aggregate response, the grant is released and the CsrBridge is `Idle`
again. -/
theorem bridge_done_cycle (beat : CsrPort) (hn : g < s.cfg.n) (hp : s.br.phase = .done) :
    (signals s shared beat).iniRsp[g]? = some { ack := true, err := s.br.err, datR := bridgeData s.draw s.br } ∧
      (runEdge s (signals s shared beat)).grant = none ∧
      (runEdge s (signals s shared beat)).br = { s.br with phase := .idle } := by
  have hrsp := (signals_decRsp_bridge hroute hr beat).trans (bridgeRsp_done s.draw hp)
  rw [signals_iniRsp_granted hg shared beat hn, runEdge_grant_of_granted hg, hrsp, runEdge_br,
    bridgeNext_done _ _ hp]
  exact ⟨rfl, rfl, rfl⟩

end

/-- Settles O29: an `Idle` CsrBridge latches the request routed to it (`runEdge_br_accept`) and completes nothing
(`bridgeRsp_not_done`); without a request its edge keeps it. -/
theorem bridgeAcceptsAWideRequest : Obligations.BridgeAcceptsAWideRequest := by
  refine ⟨fun we i adr sel datW s g k r hi hrst hg hn hp hroute hr => ?_, fun s t h hrst hp hnone => ?_⟩
  · have he : exec i s = .next (fabricCycle s (onShared adr we sel datW) (csrBus s)) := by
      cases we <;> rw [hi] <;> rfl
    have hrouted : decoderRoute s.cfg (onShared adr we sel datW) = some (k, r) := hroute
    have hnotDone : s.br.phase ≠ .done := by simp [hp]
    rw [fabricCycle_run _ _ hrst] at he
    refine ⟨_, he, runEdge_br_accept hrouted hr _ hp, csrBus_req_of_not_busy (by simp [hp]), ?_,
      runEdge_grant_of_bridge hrouted hr hg _ hnotDone⟩
    rw [runEdge_sig, signals_iniRsp_granted hg _ _ hn, signals_decRsp_bridge hrouted hr,
      bridgeRsp_not_done _ hnotDone]
    exact ⟨_, rfl, rfl, rfl⟩
  · rw [step_br h hrst]
    exact bridgeNext_idle_of_no_request _ hp hnone

/-- Settles O30: a cycle of the fabric has the CsrBridge's own beat and response. -/
theorem bridgeIsSilentOutsideItsPhases : Obligations.BridgeIsSilentOutsideItsPhases := by
  intro s t hb h
  obtain ⟨-, rfl⟩ := step_next_idleCycle hb h
  rw [idleCycle, fabricCycle_sig, signals_beat, signals_brRsp]
  refine ⟨csrBus_req_of_not_busy, fun hp => ?_⟩
  rw [bridgeRsp_not_done _ hp]
  exact ⟨rfl, rfl⟩

/-! A beat (R233, R234) -/

theorem csrBus_busy {s : State} (hp : s.br.phase = .busy) :
    csrBus s = { req := true, q := beatOf s.br.adr s.br.we s.br.sel s.br.dat s.br.k } :=
  bridgeBeat_busy s.draw hp

/-- Settles O31: the beat is `beatOf` of the latched request at the cursor. -/
theorem beatIsFormedFromTheCursor : Obligations.BeatIsFormedFromTheCursor := by
  intro s t hb h hp
  obtain ⟨-, rfl⟩ := step_next_idleCycle hb h
  rw [idleCycle, fabricCycle_sig, signals_beat, csrBus_busy hp]
  refine ⟨rfl, beatAddr_toNat _ _, rfl, rfl, fun i hi => ?_⟩
  rw [beatOf, lane_getLsbD, decide_eq_true hi, Bool.true_and]

theorem bridgeBeatEdge_failed (b : Bridge) {rsp : BeatRsp} (he : rsp.err = true) :
    bridgeBeatEdge b rsp = { b with err := true, phase := .done } := by
  simp [bridgeBeatEdge, he]

/-- An acknowledged beat keeps the recorded error and moves the cursor, or ends the sequence with it in place. -/
theorem bridgeBeatEdge_acked (b : Bridge) {rsp : BeatRsp} (ha : rsp.ack = true) (he : rsp.err = false) :
    (bridgeBeatEdge b rsp).err = b.err ∧
      (b.k = 3 → (bridgeBeatEdge b rsp).phase = .done ∧ (bridgeBeatEdge b rsp).k = 3) ∧
      (b.k ≠ 3 → (bridgeBeatEdge b rsp).phase = .busy ∧ (bridgeBeatEdge b rsp).k.toNat = b.k.toNat + 1) := by
  simp only [bridgeBeatEdge, ha, he, Bool.false_eq_true, if_false, if_true, true_and]
  refine ⟨fun hk => ?_, fun hk => ?_⟩
  · simp [hk]
  · simp only [hk, if_false, true_and]
    bv_omega

/-- An acknowledged read beat fills its lane (10_state.md R42). -/
theorem bridgeBeatEdge_fills_lane {b : Bridge} {rsp : BeatRsp} (ha : rsp.ack = true) (he : rsp.err = false)
    (hw : b.we = false) : lane (bridgeBeatEdge b rsp).rbuf b.k.toNat = rsp.datR := by
  simp only [bridgeBeatEdge, ha, he, hw, Bool.false_eq_true, if_false, if_true]
  exact lane_setLane_same b.rbuf rsp.datR b.k.isLt

/-- Settles O32: in `Busy` the CsrBridge's edge is the beat's completion, one lemma for each kind of response. -/
theorem beatCompletionMovesTheBridge : Obligations.BeatCompletionMovesTheBridge := by
  intro s t h hrst hp
  rw [step_br h hrst, bridgeNext_busy _ _ hp]
  refine ⟨fun he => bridgeBeatEdge_failed _ he, fun he ha => bridgeBeatEdge_outstanding _ ha he, fun he ha => ?_⟩
  obtain ⟨hadr, hwe, hdat, hsel, hwrite, hothers⟩ := bridgeBeatEdge_frame s.br t.sig.csrRsp
  obtain ⟨herr, hlast, hmoves⟩ := bridgeBeatEdge_acked s.br ha he
  exact ⟨herr, hadr, hwe, hdat, hsel, hlast, hmoves, hwrite,
    fun hw => ⟨bridgeBeatEdge_fills_lane ha he hw, fun j _ hj => hothers j hj⟩⟩

/-! The aggregate response (R238) -/

theorem bridgeData_read (draw : Nat) {b : Bridge} (hw : b.we = false) (he : b.err = false) :
    bridgeData draw b = b.rbuf := by
  simp [bridgeData, hw, he]

/-- Below the failing beat an aborted read answers what its completed beats read. -/
theorem lane_bridgeData_aborted (draw : Nat) {b : Bridge} (hw : b.we = false) (he : b.err = true) {j : Nat}
    (hj : j < b.k.toNat) : lane (bridgeData draw b) j = lane b.rbuf j := by
  simp only [bridgeData, hw, he, Bool.false_eq_true, if_false, if_true]
  exact lane_mergeLanes_low _ _ hj

/-- Settles O33: the kind's meaning is a `Done` cycle (`bridge_done_cycle`), which answers `bridgeData`. -/
theorem aggregateResponseOfAWideTransaction : Obligations.AggregateResponseOfAWideTransaction := by
  intro i adr sel datW s g k r hi hrst hg hn hp hroute hr
  obtain ⟨we, he⟩ := exec_mainBus_next s hi
  rw [fabricCycle_run _ _ hrst] at he
  have hrouted : decoderRoute s.cfg (onShared adr we sel datW) = some (k, r) := hroute
  obtain ⟨hrsp, hgrant, hbr⟩ := bridge_done_cycle hrouted hr hg (csrBus s) hn hp
  exact ⟨_, _, he, hrsp, rfl, rfl, fun hw herr => bridgeData_read _ hw herr,
    fun hw herr j hj => lane_bridgeData_aborted _ hw herr hj, hbr, hgrant⟩

/-! Cycles in a row -/

/-- In `d` cycles from `s` the fabric comes to `t`, and a recorder on the CSR sub-bus sees the beats `seen`;
`before` and `after` say whether the beat on the sub-bus has been recorded already. -/
structure Reaches (d : Nat) (before : Bool) (s : State) (seen : List BeatReq) (after : Bool) (t : State) : Prop where
  run    : ∀ k, core.run (d + k) s = core.run k t
  record : ∀ k, recordFrom (d + k) before s = seen ++ recordFrom k after t

theorem run_succ (M : Host.Core) {s t : M.State} (h : M.step s = .next t) (k : Nat) : M.run (k + 1) s = M.run k t := by
  rw [Host.Core.run, h]

theorem recordFrom_zero (waiting : Bool) (s : State) : recordFrom 0 waiting s = [] := rfl

theorem reaches_step {s t : State} (before : Bool) (h : step s = .next t) (hrst : s.input.rst = false) :
    Reaches 1 before s (if t.sig.beat.req && !before then [t.sig.beat.q] else [])
      (t.sig.beat.req && !completes t.sig.csrRsp.ack t.sig.csrRsp.err) t where
  run k := by
    rw [Nat.add_comm]
    exact run_succ core h k
  record k := by
    rw [Nat.add_comm, recordFrom, h]
    simp [hrst]

theorem Reaches.refl (before : Bool) (s : State) : Reaches 0 before s [] before s where
  run k := by rw [Nat.zero_add]
  record k := by rw [Nat.zero_add, List.nil_append]

theorem Reaches.trans {d d' : Nat} {before mid after : Bool} {s t u : State} {seen seen' : List BeatReq}
    (h : Reaches d before s seen mid t) (h' : Reaches d' mid t seen' after u) :
    Reaches (d + d') before s (seen ++ seen') after u where
  run k := by rw [Nat.add_assoc, h.run, h'.run]
  record k := by rw [Nat.add_assoc, h.record, h'.record, List.append_assoc]

/-! The fabric in a wide transaction -/

/-- Initiator `g` has a request `w` that is routed to the CsrBridge of an accepted configuration, which sees the word
offset `o`. -/
structure WideRequest (cfg : Config) (g : Nat) (w : Wreq) (o : BridgeAddr) : Prop where
  accepted : configError cfg = none
  place_lt : g < cfg.n
  routed   : ∃ k r, route cfg.mainMap (byteAddr (BusReq.unpack w).adr) = some (k, r) ∧ r.target = .bridge ∧
    o = (rebaseWord r (BusReq.unpack w).adr).setWidth 26

/-- Initiator `g` holds the bus of the configuration `cfg`, the CsrBridge has the registers `b`, `due` says whether a
CSR error is due, and the environment drives `inps` from now on. -/
structure WideAt (cfg : Config) (g : Nat) (b : Bridge) (due : Bool) (inps : List CycleInput) (s : State) : Prop where
  cfg_eq   : s.cfg = cfg
  no_bench : s.bench = []
  granted  : s.grant = some g
  br_eq    : s.br = b
  csr_due  : s.csrErr = due
  inputs   : s.inputs = inps

theorem requestLine_of_drives {g : Nat} {w : Wreq} {inp : CycleInput} (draw : Nat) (h : Drives g w inp) :
    requestLine draw inp g = { req := true, word := w } := by
  simp [requestLine, h.2]

section
variable {cfg : Config} {g : Nat} {w : Wreq} {o : BridgeAddr} {b b' : Bridge} {due due' : Bool} {inp : CycleInput}
  {rest : List CycleInput} {s : State}
  (hw : WideRequest cfg g w o) (h : WideAt cfg g b due (inp :: rest) s) (hd : Drives g w inp)
include hd h

theorem WideAt.rst : s.input.rst = false := by
  rw [input_cons h.inputs]
  exact hd.1

theorem WideAt.sharedBus_eq : sharedBus s = { req := true, q := BusReq.unpack w } := by
  rw [sharedBus_granted h.granted, input_cons h.inputs, requestLine_of_drives _ hd]

include hw

theorem WideAt.step_eq : step s = .next (runEdge s (ownSignals s)) := by
  have hc : configError s.cfg = none := by rw [h.cfg_eq, hw.accepted]
  rw [step_eq_cycle hc h.no_bench, idleCycle_run (h.rst hd)]

theorem WideAt.routed : ∃ k r, decoderRoute s.cfg (sharedBus s) = some (k, r) ∧ r.target = .bridge ∧
    o = (rebaseWord r (sharedBus s).q.adr).setWidth 26 := by
  rw [h.cfg_eq, h.sharedBus_eq hd]
  exact hw.routed

/-- Before `Done` a cycle of the transaction leaves the bus with its initiator. -/
theorem WideAt.next (hp : b.phase ≠ .done) (hb : (runEdge s (ownSignals s)).br = b')
    (hdue : (runEdge s (ownSignals s)).csrErr = due') : WideAt cfg g b' due' rest (runEdge s (ownSignals s)) := by
  obtain ⟨k, r, hroute, hr, -⟩ := h.routed hw hd
  have hgrant := runEdge_grant_of_bridge hroute hr h.granted (csrBus s) (by rwa [h.br_eq])
  exact ⟨h.cfg_eq, h.no_bench, hgrant, hb, hdue, by rw [runEdge_inputs, h.inputs, List.tail_cons]⟩

/-- Outside `Busy` there is no beat to be seen (R232). -/
theorem WideAt.reaches_of_not_busy (hp : b.phase ≠ .busy) :
    Reaches 1 false s [] false (runEdge s (ownSignals s)) := by
  have hbeat : (ownSignals s).beat.req = false := csrBus_req_of_not_busy (by rwa [h.br_eq])
  simpa [hbeat] using reaches_step false (h.step_eq hw hd) (h.rst hd)

/-- The accept cycle (R231). -/
theorem WideAt.accept (hp : b.phase = .idle) :
    ∃ t, Reaches 1 false s [] false t ∧ WideAt cfg g (acceptedBridge o (BusReq.unpack w) b.rbuf) false rest t := by
  obtain ⟨k, r, hroute, hr, ho⟩ := h.routed hw hd
  have hidle : s.br.phase = .idle := by rw [h.br_eq, hp]
  refine ⟨_, h.reaches_of_not_busy hw hd (by simp [hp]), h.next hw hd (by simp [hp]) ?_ ?_⟩
  · rw [ownSignals, runEdge_br_accept hroute hr _ hidle, ← ho, h.sharedBus_eq hd, h.br_eq]
  · exact runEdge_csrErr_of_not_busy _ (by simp [hidle])

/-- The `Done` cycle (R238). -/
theorem WideAt.finish (hp : b.phase = .done) :
    ∃ t, Reaches 1 false s [] false t ∧
      t.sig.iniRsp[g]? = some { ack := true, err := b.err, datR := bridgeData s.draw b } ∧
      t.grant = none ∧ t.br.phase = .idle := by
  obtain ⟨k, r, hroute, hr, -⟩ := h.routed hw hd
  have hplace : g < s.cfg.n := by rw [h.cfg_eq]; exact hw.place_lt
  obtain ⟨hrsp, hgrant, hbr⟩ := bridge_done_cycle hroute hr h.granted (csrBus s) hplace (by rw [h.br_eq, hp])
  rw [h.br_eq] at hrsp
  exact ⟨_, h.reaches_of_not_busy hw hd (by simp [hp]), hrsp, hgrant, congrArg Bridge.phase hbr⟩

/-- A `Busy` cycle: the beat at the cursor is on the sub-bus, seen if it was not before, and is answered `rsp`. -/
theorem WideAt.beat (hp : b.phase = .busy) (before : Bool) {q : BeatReq} (hq : q = beatOf b.adr b.we b.sel b.dat b.k)
    {rsp : BeatRsp} (hrsp : csrDecoderRsp s.draw (route cfg.csrMap q.adr.toNat) due inp = rsp) :
    ∃ t, Reaches 1 before s (if before then [] else [q]) (!completes rsp.ack rsp.err) t ∧
      WideAt cfg g (bridgeBeatEdge b rsp) (dueError true (route cfg.csrMap q.adr.toNat) due) rest t := by
  have hbeat : csrBus s = { req := true, q := q } := by rw [csrBus_busy (by rw [h.br_eq, hp]), h.br_eq, hq]
  have hown : (ownSignals s).beat = { req := true, q := q } := hbeat
  have hroute : csrRoute s.cfg (csrBus s) = route cfg.csrMap q.adr.toNat := by rw [hbeat, h.cfg_eq]; rfl
  have hanswer : (ownSignals s).csrRsp = rsp := by
    rw [ownSignals, signals_csrRsp, hroute, h.csr_due, input_cons h.inputs, hrsp]
  refine ⟨_, ?_, h.next hw hd (by simp [hp]) ?_ ?_⟩
  · have hstep := reaches_step before (h.step_eq hw hd) (h.rst hd)
    rw [runEdge_sig, hanswer, hown] at hstep
    cases before <;> simpa using hstep
  · rw [runEdge_br, hanswer, h.br_eq, bridgeNext_busy _ _ hp]
  · rw [runEdge_csrErr, ownSignals, signals_beat, hroute, hbeat, h.csr_due]

end

/-! The cycles of one beat (R239, R242, R274) -/

section
variable {cfg : Config} {q : BeatReq} {a : BeatRsp} {inp : CycleInput} (h : AnswersBeat cfg q a inp)
include h

theorem csrDecoderRsp_of_answers (draw : Nat) (due : Bool) :
    csrDecoderRsp draw (route cfg.csrMap q.adr.toNat) due inp = a := by
  obtain ⟨u, r, hroute, ha⟩ := h
  simp [hroute, csrDecoderRsp, csrAnswer, ha]

theorem dueError_of_answers (due : Bool) : dueError true (route cfg.csrMap q.adr.toNat) due = false := by
  obtain ⟨u, r, hroute, -⟩ := h
  simp [dueError, hroute]

end

section
variable {cfg : Config} {g : Nat} {w : Wreq} {o : BridgeAddr} {b : Bridge} {q : BeatReq} {a : BeatRsp}
  {inps rest : List CycleInput} {s : State}
  (hw : WideRequest cfg g w o) (hp : b.phase = .busy) (hq : q = beatOf b.adr b.we b.sel b.dat b.k)
  (hc : completes a.ack a.err = true)
include hw hp hq hc

/-- A mapped beat: a cycle in which its target gives no completion changes nothing, and the last one completes it. -/
theorem WideAt.mapped_beat {waits : List CycleInput} {last : CycleInput} (before : Bool)
    (hwaits : ∀ inp ∈ waits, ∃ d, AnswersBeat cfg q { ack := false, err := false, datR := d } inp)
    (hlast : AnswersBeat cfg q a last) (hd : ∀ inp ∈ waits ++ [last], Drives g w inp)
    (h : WideAt cfg g b false (waits ++ last :: rest) s) :
    ∃ t, Reaches (waits.length + 1) before s (if before then [] else [q]) false t ∧
      WideAt cfg g (bridgeBeatEdge b a) false rest t := by
  induction waits generalizing s before with
  | nil =>
    obtain ⟨t, hreach, hnext⟩ := h.beat hw (hd last (by simp)) hp before hq (csrDecoderRsp_of_answers hlast _ _)
    rw [hc] at hreach
    rw [dueError_of_answers hlast] at hnext
    exact ⟨t, hreach, hnext⟩
  | cons inp waits ih =>
    obtain ⟨⟨d, hwait⟩, hwaits⟩ := List.forall_mem_cons.1 hwaits
    obtain ⟨hdrive, hd⟩ := List.forall_mem_cons.1 hd
    obtain ⟨t, hreach, hnext⟩ := h.beat hw hdrive hp before hq (csrDecoderRsp_of_answers hwait _ _)
    rw [dueError_of_answers hwait, bridgeBeatEdge_outstanding b rfl rfl] at hnext
    obtain ⟨u, hreach', hu⟩ := ih true hwaits hd hnext
    have hall := hreach.trans hreach'
    rw [if_pos rfl, List.append_nil, Nat.add_comm 1] at hall
    exact ⟨u, hall, hu⟩

/-- An unmapped beat: its error falls due in its first cycle and completes it in its second. -/
theorem WideAt.unmapped_beat {inp inp' : CycleInput} (hroute : route cfg.csrMap q.adr.toNat = none)
    (ha : a = synthesizedBeatError) (hd : ∀ i ∈ [inp, inp'], Drives g w i)
    (h : WideAt cfg g b false (inp :: inp' :: rest) s) :
    ∃ t, Reaches 2 false s [q] false t ∧ WideAt cfg g (bridgeBeatEdge b a) false rest t := by
  obtain ⟨t, hreach, hnext⟩ := h.beat hw (hd inp (by simp)) hp false hq
    (rsp := noBeatAnswer s.draw .csrDecoderNone) (by rw [hroute]; rfl)
  rw [hroute, bridgeBeatEdge_outstanding b rfl rfl] at hnext
  obtain ⟨u, hreach', hu⟩ := hnext.beat hw (hd inp' (by simp)) hp true hq (rsp := a)
    (by rw [hroute, ha]; rfl)
  rw [hroute] at hu
  rw [hc] at hreach'
  exact ⟨u, hreach.trans hreach', hu⟩

/-- However long a beat takes, it is seen once, its answer moves the CsrBridge, and no error stays due. -/
theorem WideAt.takes_beat (ht : TakesBeat cfg q a inps) (hd : ∀ inp ∈ inps, Drives g w inp)
    (h : WideAt cfg g b false (inps ++ rest) s) :
    ∃ t, Reaches inps.length false s [q] false t ∧ WideAt cfg g (bridgeBeatEdge b a) false rest t := by
  rcases ht with ⟨waits, last, rfl, hwaits, hlast⟩ | ⟨hroute, hlen, ha⟩
  · rw [List.append_assoc] at h
    simpa using h.mapped_beat hw hp hq hc false hwaits hlast hd
  · obtain ⟨inp, inp', rfl⟩ := List.length_eq_two.1 hlen
    exact h.unmapped_beat hw hp hq hc hroute ha hd

end

/-! What the beats come to (R234, R235, R236) -/

/-- How many beats of a sequence without an error the CsrBridge has behind it: those below the cursor, all four in
`Done`. -/
def beatsBehind (b : Bridge) : Nat := if b.phase = .done then 4 else b.k.toNat

/-- The beats of a sequence without an error that the CsrBridge has before it. -/
def beatsAhead (b : Bridge) : List BeatReq := (wideBeats b.adr b.we b.sel b.dat).drop (beatsBehind b)

theorem beatsAhead_done {b : Bridge} (hp : b.phase = .done) : beatsAhead b = [] := by
  simp [beatsAhead, beatsBehind, hp, wideBeats]

theorem drop_wideBeats (o : BridgeAddr) (we : Bool) (sel : Lanes) (dat : Word) (k : BeatIndex) :
    (wideBeats o we sel dat).drop k.toNat =
      beatOf o we sel dat k :: (wideBeats o we sel dat).drop (k.toNat + 1) := by
  have hk : k = 0 ∨ k = 1 ∨ k = 2 ∨ k = 3 := by revert k; decide
  rcases hk with rfl | rfl | rfl | rfl <;> rfl

theorem beatsAhead_busy {b : Bridge} (hp : b.phase = .busy) :
    beatsBehind b = b.k.toNat ∧
      beatsAhead b = beatOf b.adr b.we b.sel b.dat b.k :: (wideBeats b.adr b.we b.sel b.dat).drop (b.k.toNat + 1) := by
  have hbehind : beatsBehind b = b.k.toNat := by simp [beatsBehind, hp]
  rw [beatsAhead, hbehind]
  exact ⟨rfl, drop_wideBeats ..⟩

theorem beatsBehind_accepted (o : BridgeAddr) (q : BusReq) (rbuf : Word) :
    beatsBehind (acceptedBridge o q rbuf) = 0 := rfl

theorem beatsAhead_accepted (o : BridgeAddr) (q : BusReq) (rbuf : Word) :
    beatsAhead (acceptedBridge o q rbuf) = wideBeats o q.we q.sel q.datW := rfl

theorem done_of_none_ahead {b : Bridge} (hp : b.phase ≠ .idle) (h : beatsAhead b = []) : b.phase = .done := by
  cases hphase : b.phase with
  | idle => exact absurd hphase hp
  | busy => simp [(beatsAhead_busy hphase).2] at h
  | done => rfl

theorem busy_of_some_ahead {b : Bridge} {q : BeatReq} {qs : List BeatReq} (hp : b.phase ≠ .idle)
    (h : beatsAhead b = q :: qs) :
    b.phase = .busy ∧ q = beatOf b.adr b.we b.sel b.dat b.k ∧
      (wideBeats b.adr b.we b.sel b.dat).drop (b.k.toNat + 1) = qs := by
  cases hphase : b.phase with
  | idle => exact absurd hphase hp
  | done => simp [beatsAhead_done hphase] at h
  | busy =>
    rw [(beatsAhead_busy hphase).2] at h
    obtain ⟨hq, hqs⟩ := List.cons.inj h
    exact ⟨rfl, hq.symm, hqs⟩

theorem bridgeBeatEdge_not_idle {b : Bridge} (hp : b.phase = .busy) (rsp : BeatRsp) :
    (bridgeBeatEdge b rsp).phase ≠ .idle := by
  unfold bridgeBeatEdge
  split_ifs <;> simp [hp]

section
variable {b : Bridge} {rsp : BeatRsp} (ha : rsp.ack = true) (he : rsp.err = false)
include ha he

theorem beatsBehind_acked : beatsBehind (bridgeBeatEdge b rsp) = b.k.toNat + 1 := by
  obtain ⟨-, hlast, hmoves⟩ := bridgeBeatEdge_acked b ha he
  by_cases hk : b.k = 3
  · simp [beatsBehind, hlast hk, hk]
  · simp [beatsBehind, hmoves hk]

/-- An acknowledged beat leaves the other beats ahead. -/
theorem beatsAhead_acked :
    beatsAhead (bridgeBeatEdge b rsp) = (wideBeats b.adr b.we b.sel b.dat).drop (b.k.toNat + 1) := by
  obtain ⟨hadr, hwe, hdat, hsel, -⟩ := bridgeBeatEdge_frame b rsp
  rw [beatsAhead, beatsBehind_acked ha he, hadr, hwe, hdat, hsel]

end

/-- The CsrBridge `b'` has ended the beats that `b` had before it, with the outcome `out`. -/
structure EndsWith (b b' : Bridge) (out : WideOutcome) : Prop where
  done   : b'.phase = .done
  err_eq : b'.err = out.err
  we_eq  : b'.we = b.we
  kept   : ∀ j, j < beatsBehind b → lane b'.rbuf j = lane b.rbuf j
  filled : b.we = false → ∀ j c, out.data[j]? = some c → lane b'.rbuf (beatsBehind b + j) = c
  bound  : out.err = true → beatsBehind b + out.data.length ≤ b'.k.toNat

theorem EndsWith.none_ahead {b : Bridge} (hp : b.phase = .done) (he : b.err = false) :
    EndsWith b b { err := false, issued := [], data := [] } where
  done := hp
  err_eq := he
  we_eq := rfl
  kept _ _ := rfl
  filled := by simp
  bound := by simp

theorem EndsWith.failed {b : Bridge} {rsp : BeatRsp} (hp : b.phase = .busy) (he : rsp.err = true)
    (issued : List BeatReq) :
    EndsWith b (bridgeBeatEdge b rsp) { err := true, issued := issued, data := [] } := by
  rw [bridgeBeatEdge_failed b he]
  exact {
    done := rfl
    err_eq := rfl
    we_eq := rfl
    kept := fun _ _ => rfl
    filled := by simp
    bound := by simp [beatsBehind, hp] }

/-- An acknowledged beat puts its byte before those of the beats that follow it. -/
theorem EndsWith.acked {b b' : Bridge} {rsp : BeatRsp} {out : WideOutcome} (hp : b.phase = .busy) (ha : rsp.ack = true)
    (he : rsp.err = false) (h : EndsWith (bridgeBeatEdge b rsp) b' out) (issued : List BeatReq) :
    EndsWith b b' { err := out.err, issued := issued, data := rsp.datR :: out.data } := by
  obtain ⟨-, hwe, -, -, -, hothers⟩ := bridgeBeatEdge_frame b rsp
  have hbehind : beatsBehind b = b.k.toNat := (beatsAhead_busy hp).1
  obtain ⟨hdone, herr, hwe', hkept, hfilled, hbound⟩ := h
  rw [beatsBehind_acked ha he] at hkept hfilled hbound
  refine ⟨hdone, herr, hwe'.trans hwe, fun j hj => ?_, fun hread j c hc => ?_, fun herr' => ?_⟩
  · rw [hbehind] at hj
    rw [hkept j (by omega), hothers j (by omega)]
  · rw [hbehind]
    cases j with
    | zero =>
      cases hc
      rw [Nat.add_zero, hkept _ (by omega), bridgeBeatEdge_fills_lane ha he hread]
    | succ j =>
      rw [← hfilled (hwe.trans hread) j c hc]
      congr 1
      omega
  · have hlen := hbound herr'
    simp only [List.length_cons]
    omega

/-- The lane of a completed read beat in the aggregate response (R238). -/
theorem EndsWith.lane_response {b b' : Bridge} {out : WideOutcome} (h : EndsWith b b' out) (draw : Nat)
    (hread : b.we = false) {j : Nat} {c : Byte} (hc : out.data[j]? = some c) :
    lane (bridgeData draw b') (beatsBehind b + j) = c := by
  have hread' : b'.we = false := h.we_eq.trans hread
  obtain ⟨hlt, -⟩ := List.getElem?_eq_some_iff.1 hc
  rw [← h.filled hread j c hc]
  cases herr : out.err with
  | false => rw [bridgeData_read draw hread' (h.err_eq.trans herr)]
  | true =>
    have hbound := h.bound herr
    exact lane_bridgeData_aborted draw hread' (h.err_eq.trans herr) (by omega)

/-! The beats in a row (R235, R236, R241, R244) -/

section
variable {σ : Type} {answer : σ → BeatReq → BeatRsp × σ} {m : σ} {q : BeatReq} (qs : List BeatReq)

theorem runBeats_failed (he : (answer m q).1.err = true) :
    (runBeats answer m (q :: qs)).1 = { err := true, issued := [q], data := [] } := by
  simp [runBeats, he]

theorem runBeats_acked (he : (answer m q).1.err = false) :
    (runBeats answer m (q :: qs)).1 =
      { err := (runBeats answer (answer m q).2 qs).1.err, issued := q :: (runBeats answer (answer m q).2 qs).1.issued,
        data := (answer m q).1.datR :: (runBeats answer (answer m q).2 qs).1.data } := by
  simp [runBeats, he]

end

/-- The cycles that serve the beats ahead of the CsrBridge are the transaction of R235 and R236 over those beats. -/
theorem WideAt.served {σ : Type} {answer : σ → BeatReq → BeatRsp × σ} {cfg : Config} {g : Nat} {w : Wreq}
    {o : BridgeAddr} (hw : WideRequest cfg g w o) (qs : List BeatReq) {m : σ} {b : Bridge} {ds : List Nat}
    {mids rest : List CycleInput} {s : State} (hs : Served cfg answer m qs ds mids)
    (hd : ∀ inp ∈ mids, Drives g w inp) (hqs : beatsAhead b = qs) (hp : b.phase ≠ .idle) (he : b.err = false)
    (h : WideAt cfg g b false (mids ++ rest) s) :
    ∃ t b', Reaches ds.sum false s (runBeats answer m qs).1.issued false t ∧ WideAt cfg g b' false rest t ∧
      EndsWith b b' (runBeats answer m qs).1 ∧ ds.length = (runBeats answer m qs).1.issued.length ∧
      mids.length = ds.sum := by
  induction qs generalizing m b ds mids s with
  | nil =>
    obtain ⟨rfl, rfl⟩ := hs
    exact ⟨s, b, .refl false s, h, .none_ahead (done_of_none_ahead hp hqs) he, rfl, rfl⟩
  | cons q qs ih =>
    cases ds with
    | nil => exact hs.elim
    | cons d ds =>
      obtain ⟨hlen, htakes, hrest⟩ := hs
      obtain ⟨hbusy, hq, hqs⟩ := busy_of_some_ahead hp hqs
      have hcompletes : completes (answer m q).1.ack (answer m q).1.err = true := by
        cases herr : (answer m q).1.err with
        | true => exact Bool.or_true _
        | false =>
          rw [herr, if_neg Bool.false_ne_true] at hrest
          obtain ⟨hack, -⟩ := hrest
          rw [hack]
          rfl
      have hdriven : ∀ inp ∈ mids.take d ++ mids.drop d, Drives g w inp := by rwa [List.take_append_drop]
      obtain ⟨hdriven, hdriven'⟩ := List.forall_mem_append.1 hdriven
      rw [← List.take_append_drop d mids, List.append_assoc] at h
      obtain ⟨t, hreach, hnext⟩ := h.takes_beat hw hbusy hq hcompletes htakes hdriven
      rw [List.length_take_of_le hlen] at hreach
      cases herr : (answer m q).1.err with
      | true =>
        rw [herr, if_pos rfl] at hrest
        obtain ⟨rfl, hdrop⟩ := hrest
        rw [hdrop] at hnext
        rw [runBeats_failed qs herr]
        exact ⟨t, _, hreach, hnext, .failed hbusy herr _, rfl,
          by simpa using (List.drop_eq_nil_iff.1 hdrop).antisymm hlen⟩
      | false =>
        rw [herr, if_neg Bool.false_ne_true] at hrest
        obtain ⟨hack, hserved⟩ := hrest
        obtain ⟨herr', -⟩ := bridgeBeatEdge_acked b hack herr
        obtain ⟨u, b', hreach', hu, hend, hcount, hsum⟩ :=
          ih hserved hdriven' ((beatsAhead_acked hack herr).trans hqs) (bridgeBeatEdge_not_idle hbusy _)
            (herr'.trans he) hnext
        rw [runBeats_acked qs herr]
        refine ⟨u, b', hreach.trans hreach', hu, hend.acked hbusy hack herr _, by simp [hcount], ?_⟩
        rw [List.sum_cons, ← hsum, List.length_drop]
        omega

/-- Settles O35: the accept cycle (`WideAt.accept`), the cycles of the beats (`WideAt.served`) and the `Done` cycle
(`WideAt.finish`) follow each other, and the response's lanes are those the beats left in the buffer. -/
theorem wideCyclesRefineTheTransaction : Obligations.WideCyclesRefineTheTransaction := by
  intro σ answer m s g w o first last mids rest ds hstart hinputs hfirst hlast hmids hserved
  obtain ⟨hc, hbench, hg, hn, hidle, hrouted⟩ := hstart
  have hw : WideRequest s.cfg g w o := ⟨hc, hn, hrouted⟩
  have hs : WideAt s.cfg g s.br s.csrErr (first :: (mids ++ last :: rest)) s := ⟨rfl, hbench, hg, rfl, rfl, hinputs⟩
  obtain ⟨s1, hreach1, hs1⟩ := hs.accept hw hfirst hidle
  obtain ⟨s2, b, hreach2, hs2, hend, hcount, hsum⟩ := hs1.served hw _ hserved hmids (beatsAhead_accepted ..)
    (by simp [acceptedBridge]) rfl
  obtain ⟨t, hreach3, hrsp, hgrant, hphase⟩ := hs2.finish hw hlast hend.done
  have hall := (hreach1.trans hreach2).trans hreach3
  refine ⟨_, _, t, _, Prod.mk.eta.symm, hall.run 0, ?_, hcount, hsum, hrsp, rfl, hend.err_eq, fun hread j c hc => ?_,
    hgrant, hphase⟩
  · simpa [recordBeats, recordFrom_zero] using hall.record 0
  · simpa [beatsBehind_accepted] using hend.lane_response s2.draw hread hc

/-! A read without wait states (R237, R242) -/

/-- A CSR sub-bus that answers its beats from a list. -/
def listedAnswer : List BeatRsp → BeatReq → BeatRsp × List BeatRsp
  | [], _ => (synthesizedBeatError, [])
  | a :: as, _ => (a, as)

/-- A beat answered in its first cycle is served by that cycle. -/
theorem served_without_wait {cfg : Config} {q : BeatReq} {qs : List BeatReq} {a : BeatRsp} {as : List BeatRsp}
    {ds : List Nat} {inp : CycleInput} {inps : List CycleInput} (ha : a.ack = true ∧ a.err = false)
    (h : AnswersBeat cfg q a inp) (hs : Served cfg listedAnswer as qs ds inps) :
    Served cfg listedAnswer (a :: as) (q :: qs) (1 :: ds) (inp :: inps) := by
  obtain ⟨hack, herr⟩ := ha
  have htakes : TakesBeat cfg q a [inp] := .inl ⟨[], inp, rfl, by simp, h⟩
  refine ⟨by simp, htakes, ?_⟩
  rw [if_neg (by simp [listedAnswer, herr])]
  exact ⟨hack, hs⟩

/-- Beats answered without error are all issued, and each answers its byte. -/
theorem runBeats_listedAnswer {qs : List BeatReq} {as : List BeatRsp} (hlen : qs.length = as.length)
    (ha : ∀ a ∈ as, a.err = false) :
    (runBeats listedAnswer as qs).1 = { err := false, issued := qs, data := as.map BeatRsp.datR } := by
  induction qs generalizing as with
  | nil =>
    obtain rfl := List.length_eq_zero_iff.1 hlen.symm
    rfl
  | cons q qs ih =>
    cases as with
    | nil => simp at hlen
    | cons a as =>
      obtain ⟨herr, ha⟩ := List.forall_mem_cons.1 ha
      rw [runBeats_acked qs herr]
      simp only [listedAnswer, ih (Nat.succ.inj hlen) ha, List.map_cons]

/-- Settles O34: O35 with four answers in four cycles; the lanes of the response are its data. -/
theorem wideReadReturnsItsFourBytes : Obligations.WideReadReturnsItsFourBytes := by
  intro s g w o a0 a1 a2 a3 i0 i1 i2 i3 i4 i5 rest hstart hread hinputs hd ha h0 h1 h2 h3
  simp only [List.forall_mem_cons] at hd ha
  obtain ⟨hd0, hd1, hd2, hd3, hd4, hd5, -⟩ := hd
  obtain ⟨ha0, ha1, ha2, ha3, -⟩ := ha
  have hserved : Served s.cfg listedAnswer [a0, a1, a2, a3]
      (wideBeats o (BusReq.unpack w).we (BusReq.unpack w).sel (BusReq.unpack w).datW) [1, 1, 1, 1] [i1, i2, i3, i4] :=
    served_without_wait ha0 h0 <| served_without_wait ha1 h1 <| served_without_wait ha2 h2 <|
      served_without_wait ha3 h3 ⟨rfl, rfl⟩
  obtain ⟨out, m', t, p, hout, hrun, hseen, -, -, hrsp, hack, herr, hlanes, hgrant, hphase⟩ :=
    wideCyclesRefineTheTransaction _ listedAnswer _ s g w o i0 i5 [i1, i2, i3, i4] rest [1, 1, 1, 1] hstart hinputs
      hd0 hd5 (by simp [hd1, hd2, hd3, hd4]) hserved
  have hresult := runBeats_listedAnswer (as := [a0, a1, a2, a3])
    (qs := wideBeats o (BusReq.unpack w).we (BusReq.unpack w).sel (BusReq.unpack w).datW) rfl
    (by simp [ha0, ha1, ha2, ha3])
  rw [hout, hread] at hresult
  obtain rfl : out = _ := hresult
  have hdata : p.datR = wordOfLanes a0.datR a1.datR a2.datR a3.datR := by
    rw [← wordOfLanes_lanes p.datR, hlanes hread 0 _ rfl, hlanes hread 1 _ rfl, hlanes hread 2 _ rfl,
      hlanes hread 3 _ rfl]
  have hok : p.err = false := herr
  refine ⟨t, hrun, ?_, hgrant, hphase, hseen⟩
  rw [hrsp, ← hdata, ← hack, ← hok]

/-! Transactions do not see each other (R245) -/

theorem idleCycle_sig (s : State) : (idleCycle s).sig = ownSignals s := fabricCycle_sig ..

/-- The state with other registers in the CsrBridge. -/
def withBridge (s : State) (b : Bridge) : State := { s with br := b }

/-- The CsrBridge's registers name the cause of an error only where its aggregate response carries one. -/
theorem mainErrorCause_of_not_done (s : State) (routed routedBeat : Option (Nat × Region))
    (hp : s.br.phase ≠ .done) :
    mainErrorCause routed routedBeat (decoderRsp s.draw routed s.decErr s.input (bridgeRsp s.draw s.br)) =
      mainErrorCause routed none (decoderRsp s.draw routed s.decErr s.input (bridgeRsp s.draw s.br)) := by
  rcases routed with - | ⟨k, r⟩
  · rfl
  · cases hr : r.target with
    | external => simp [mainErrorCause, hr]
    | bridge => simp [mainErrorCause, decoderRsp, hr, bridgeRsp_not_done s.draw hp]

section
variable {s : State} {b : Bridge} (hs : s.br.phase = .idle) (hb : b.phase = .idle)
include hs hb

/-- In `Idle` no signal of the cycle depends on the CsrBridge's registers. -/
theorem ownSignals_withBridge : ownSignals (withBridge s b) = ownSignals s := by
  have hbeat : csrBus (withBridge s b) = csrBus s := by simp [csrBus, bridgeBeat, withBridge, hs, hb]
  have hrsp : bridgeRsp s.draw b = bridgeRsp s.draw s.br := by simp [bridgeRsp, hs, hb]
  have hcause := mainErrorCause_of_not_done s (hp := by simp [hs])
  have hcause' := mainErrorCause_of_not_done (withBridge s b) (hp := by simp [withBridge, hb])
  simp only [ownSignals, signals, hbeat, hcause, hcause']
  simp only [withBridge, hrsp]
  rfl

/-- In `Idle` the CsrBridge's registers reach nothing but the CsrBridge's own edge. -/
theorem idleCycle_withBridge :
    idleCycle (withBridge s b) =
      withBridge (idleCycle s)
        (if s.input.rst then bridgeReset s.draw else bridgeNext b (ownSignals s).bridgeIn (ownSignals s).csrRsp) := by
  have hsig := ownSignals_withBridge hs hb
  cases hrst : s.input.rst with
  | true =>
    rw [idleCycle_reset hrst, idleCycle_reset (s := withBridge s b) hrst, hsig]
    rfl
  | false =>
    rw [idleCycle_run hrst, idleCycle_run (s := withBridge s b) hrst, hsig]
    rfl

end

/-- Settles O37: the two cycles differ in the CsrBridge alone (`idleCycle_withBridge`), and both a reset and an accepted
request write all its registers but the buffer. -/
theorem idleBridgeRemembersNothing : Obligations.IdleBridgeRemembersNothing := by
  intro s t t' b hbench hs hb h h'
  obtain ⟨-, rfl⟩ := step_next_idleCycle hbench h
  obtain ⟨-, rfl⟩ := step_next_idleCycle (s := withBridge s b) hbench h'
  rw [idleCycle_withBridge hs hb]
  refine ⟨rfl, rfl, fun hwrites => ?_⟩
  cases hrst : s.input.rst with
  | true =>
    rw [idleCycle_reset hrst]
    rfl
  | false =>
    have haccept : (ownSignals s).bridgeIn.req = true := by simpa [hrst, idleCycle_sig] using hwrites
    rw [idleCycle_run hrst, runEdge_br, bridgeNext_accept _ hs haccept]
    simp [withBridge, bridgeNext_accept _ hb haccept, bridgeAccept]

/-! Storage behind the sub-bus (R243, R235, R236) -/

/-- What a write beat leaves in storage: a `CSR_WRITE` its byte, a `CSR_WRITE_NOSEL` nothing. -/
def storeBeat (m : Storage) (q : BeatReq) : Storage := if q.select then storageWrite m q.adr.toNat q.datW else m

/-- What a write beat makes of the byte at address `a`. -/
def beatByte (a : Nat) (c : Byte) (q : BeatReq) : Byte := if q.select ∧ a = q.adr.toNat then q.datW else c

theorem storeBeat_wf {m : Storage} (q : BeatReq) (hm : storageWf m = true) : storageWf (storeBeat m q) = true := by
  unfold storeBeat
  split
  · exact storageWrite_wf _ _ hm
  · exact hm

theorem storageRead_storeBeat {m : Storage} (q : BeatReq) (a : Nat) (hm : storageWf m = true) :
    storageRead (storeBeat m q) a = beatByte a (storageRead m a) q := by
  cases hselect : q.select with
  | false => simp [storeBeat, beatByte, hselect]
  | true => simp [storeBeat, beatByte, hselect, storageRead_write _ _ _ hm]

theorem storageRead_storeBeats {m : Storage} (qs : List BeatReq) (a : Nat) (hm : storageWf m = true) :
    storageRead (qs.foldl storeBeat m) a = qs.foldl (beatByte a) (storageRead m a) := by
  induction qs generalizing m with
  | nil => rfl
  | cons q rest ih => rw [List.foldl_cons, List.foldl_cons, ih (storeBeat_wf q hm), storageRead_storeBeat q a hm]

section
variable {answer : Storage → BeatReq → BeatRsp × Storage} (ha : StorageTarget answer)
include ha

/-- Write beats over storage are each stored and never fail. -/
theorem runBeats_writes (m : Storage) {qs : List BeatReq} (hw : ∀ q ∈ qs, q.we = true) :
    (runBeats answer m qs).1.err = false ∧ (runBeats answer m qs).2 = qs.foldl storeBeat m := by
  induction qs generalizing m with
  | nil => exact ⟨rfl, rfl⟩
  | cons q rest ih =>
    obtain ⟨hq, hrest⟩ := List.forall_mem_cons.1 hw
    obtain ⟨-, herr, -, hstore⟩ := ha m q
    obtain ⟨ih1, ih2⟩ := ih (storeBeat m q) hrest
    have hnext : (answer m q).2 = storeBeat m q := hstore hq
    simp only [runBeats, herr, hnext, Bool.false_eq_true, if_false, List.foldl_cons]
    exact ⟨ih1, ih2⟩

/-- Read beats over storage answer its bytes and never fail. -/
theorem runBeats_reads (m : Storage) {qs : List BeatReq} (hr : ∀ q ∈ qs, q.we = false) :
    (runBeats answer m qs).1.err = false ∧
      (runBeats answer m qs).1.data = qs.map (fun q => storageRead m q.adr.toNat) := by
  induction qs with
  | nil => exact ⟨rfl, rfl⟩
  | cons q rest ih =>
    obtain ⟨hq, hrest⟩ := List.forall_mem_cons.1 hr
    obtain ⟨-, herr, hread, -⟩ := ha m q
    obtain ⟨hbyte, hnext⟩ := hread hq
    obtain ⟨ih1, ih2⟩ := ih hrest
    simp only [runBeats, herr, hnext, hbyte, Bool.false_eq_true, if_false, ih1, ih2, List.map_cons, and_self]

end

theorem wideBeats_we {o : BridgeAddr} {we : Bool} {sel : Lanes} {dat : Word} :
    ∀ q ∈ wideBeats o we sel dat, q.we = we := by
  simp [wideBeats, beatOf]

/-- Of the four beats of a wide write only beat `j` is at byte `j` of the word. -/
theorem beatBytes_wideBeats (o : BridgeAddr) (sel : Lanes) (dat : Word) (c : Byte) {j : Nat} (hj : j < 4) :
    (wideBeats o true sel dat).foldl (beatByte (4 * o.toNat + j)) c = if sel.getLsbD j then lane dat j else c := by
  simp only [wideBeats, List.foldl_cons, List.foldl_nil, beatByte, beatOf, beatAddr_toNat, Nat.add_left_cancel_iff]
  interval_cases j <;> simp

theorem wideBeats_bytes (f : Nat → Byte) (o : BridgeAddr) (we : Bool) (sel : Lanes) (dat : Word) {j : Nat}
    (hj : j < 4) :
    ((wideBeats o we sel dat).map (fun q => f q.adr.toNat))[j]? = some (f (4 * o.toNat + j)) := by
  interval_cases j <;> simp [wideBeats, beatOf, beatAddr_toNat]

/-- Settles O36: the write leaves its beats in storage (`runBeats_writes`), the read answers the storage's bytes
(`runBeats_reads`), and byte `j` of the word is beat `j`'s. -/
theorem wideWriteReadsBack : Obligations.WideWriteReadsBack := by
  intro answer m o sel dat dat' ha hm
  obtain ⟨hwerr, hstored⟩ := runBeats_writes ha m (wideBeats_we (o := o) (sel := sel) (dat := dat))
  simp only [wideWrite, wideRead]
  rw [hstored]
  obtain ⟨hrerr, hdata⟩ := runBeats_reads ha ((wideBeats o true sel dat).foldl storeBeat m)
    (wideBeats_we (o := o) (sel := 0) (dat := dat'))
  refine ⟨hwerr, hrerr, fun j hj => ?_⟩
  rw [hdata, wideBeats_bytes _ _ _ _ _ hj, storageRead_storeBeats _ _ hm, beatBytes_wideBeats _ _ _ _ hj]

end Sys2Proof.Machine
end

section
/-! The CsrDecoder (44_csr_decoder.md): rebasing, the port a beat is driven on, and how the CSR beat kinds complete. -/

namespace Sys2Proof.Machine

/-! Rebasing (R271) -/

/-- An offset in the region fits the port's address field, so rebasing cuts nothing off (30_encoding.md R102). -/
theorem rebaseByte_toNat {r : Region} {adr : CsrAddr} (hlow : r.base ≤ adr.toNat) (hend : adr.toNat < r.base + r.size) :
    (rebaseByte r adr).toNat = adr.toNat - r.base := by
  have hbase : (BitVec.ofNat 28 r.base).toNat = r.base := Nat.mod_eq_of_lt (hlow.trans_lt adr.isLt)
  have hsub : (adr - BitVec.ofNat 28 r.base).toNat = adr.toNat - r.base := by
    rw [BitVec.toNat_sub_of_le (by rwa [BitVec.le_def, hbase]), hbase]
  have hfield : r.size ≤ 2 ^ csrAdrBits r := (clog2_le_iff _ _).1 le_rfl
  rw [rebaseByte, onField_toNat, hsub, Nat.mod_eq_of_lt (by omega)]

/-! The target ports (R272) -/

theorem csrRoute_of_req (cfg : Config) {beat : CsrPort} (h : beat.req = true) :
    csrRoute cfg beat = route cfg.csrMap beat.q.adr.toNat := by
  simp [csrRoute, h]

/-- A routed beat stands on the port of a region of the map. -/
theorem csrRoute_place {cfg : Config} {beat : CsrPort} {u : Nat} {r : Region}
    (h : csrRoute cfg beat = some (u, r)) : cfg.csrMap[u]? = some r := by
  cases hreq : beat.req with
  | false => simp [csrRoute_idle cfg hreq] at h
  | true =>
    rw [csrRoute_of_req cfg hreq] at h
    exact (route_some h).1

/-- Nothing is driven on a port but the beat routed to it. -/
theorem csrTargetPort_cases (draw bits : Nat) (routed : Option (Nat × Region)) (beat : CsrPort) (v : Nat) :
    (∃ r, routed = some (v, r) ∧ csrTargetPort draw bits routed beat v =
        { req := true, q := { beat.q with adr := rebaseByte r beat.q.adr } }) ∨
      csrTargetPort draw bits routed beat v = idleCsr draw (.csrTarget v) bits := by
  rcases routed with - | ⟨u, r⟩
  · exact .inr rfl
  · by_cases h : u = v
    · subst h
      exact .inl ⟨r, rfl, csrTargetPort_selected draw bits u r beat⟩
    · exact .inr (if_neg h)

section
variable {s : State} {shared : MainPort} {beat : CsrPort}

/-- There is a port for each region of the CSR map and no other. -/
theorem signals_csrTarget_some {v : Nat} {p : CsrPort} (h : (signals s shared beat).csrTargets[v]? = some p) :
    p = csrTargetPort s.draw (fieldBits csrAdrBits s.cfg.csrMap v) (csrRoute s.cfg beat) beat v := by
  obtain ⟨hlt, -⟩ := List.getElem?_eq_some_iff.1 h
  have hv : v < s.cfg.csrMap.length := by simpa [signals] using hlt
  rw [signals_csrTarget s shared beat hv] at h
  exact (Option.some.inj h).symm

/-- The address on a port fits its field, whether the port is driven or not (30_encoding.md R102). -/
theorem signals_csrTarget_adr_lt {v : Nat} {r : Region} {p : CsrPort} (hr : s.cfg.csrMap[v]? = some r)
    (h : (signals s shared beat).csrTargets[v]? = some p) : p.q.adr.toNat < 2 ^ csrAdrBits r := by
  rw [signals_csrTarget_some h, fieldBits_some hr]
  rcases csrTargetPort_cases s.draw (csrAdrBits r) (csrRoute s.cfg beat) beat v with ⟨x, hroute, e⟩ | e
  · obtain rfl : r = x := Option.some.inj (hr.symm.trans (csrRoute_place hroute))
    rw [e]
    exact rebaseByte_lt r _
  · rw [e]
    exact idleCsr_adr_lt _ _ _

/-- A port that no beat is routed to carries none. -/
theorem signals_csrTarget_unselected {v : Nat} {p : CsrPort} (h : (signals s shared beat).csrTargets[v]? = some p)
    (hroute : ∀ r, csrRoute s.cfg beat ≠ some (v, r)) : p.req = false := by
  rw [signals_csrTarget_some h]
  rcases csrTargetPort_cases s.draw (fieldBits csrAdrBits s.cfg.csrMap v) (csrRoute s.cfg beat) beat v with
    ⟨r, hv, -⟩ | e
  · exact absurd hv (hroute r)
  · rw [e, idleCsr_req]

/-- A routed beat is driven, rebased and otherwise unchanged, on its region's port and on no other (R272). -/
theorem signals_beat_routed {u : Nat} {r : Region} (h : csrRoute s.cfg beat = some (u, r)) :
    (signals s shared beat).csrTargets[u]? =
        some { req := true, q := { beat.q with adr := rebaseByte r beat.q.adr } } ∧
      ∀ (v : Nat) (p : CsrPort), (signals s shared beat).csrTargets[v]? = some p → v ≠ u → p.req = false := by
  obtain ⟨hu, -⟩ := List.getElem?_eq_some_iff.1 (csrRoute_place h)
  refine ⟨?_, fun v p hp hv => signals_csrTarget_unselected hp fun x hx => ?_⟩
  · rw [signals_csrTarget s shared beat hu, h, csrTargetPort_selected]
  · cases h.symm.trans hx
    exact hv rfl

/-- Without a beat or a region nothing is driven (R272). -/
theorem signals_beat_unrouted (h : csrRoute s.cfg beat = none) (v : Nat) (p : CsrPort)
    (hp : (signals s shared beat).csrTargets[v]? = some p) : p.req = false :=
  signals_csrTarget_unselected hp (by simp [h])

end

/-- Settles O38: the offset of an address in the window fits the field (`rebaseByte_toNat`), and a port carries a
rebased or a free address, either cut to its field. -/
theorem csrRebasingStaysInTheWindow : Obligations.CsrRebasingStaysInTheWindow := by
  refine ⟨fun cfg adr u r _ hroute => ?_, fun s t u r p h hr hp => ?_⟩
  · obtain ⟨-, hlow, hend⟩ := route_some hroute
    have hexact := rebaseByte_toNat hlow hend
    exact ⟨hlow, hexact, by omega, rebaseByte_lt r adr⟩
  · obtain ⟨-, shared, beat, rfl⟩ := step_next h
    rw [fabricCycle_sig] at hp
    exact signals_csrTarget_adr_lt (s := takeBench s) hr hp

/-- Settles O39: a step is a cycle, whose signals drive a routed beat on its region's port alone
(`signals_beat_routed`), and nothing without one (`signals_beat_unrouted`). -/
theorem csrDecoderDrivesExactlyTheSelectedTarget : Obligations.CsrDecoderDrivesExactlyTheSelectedTarget := by
  intro s t h
  obtain ⟨-, shared, beat, rfl⟩ := step_next h
  simp only [fabricCycle_sig, signals_beat]
  refine ⟨fun u r hreq hroute => ?_, fun hnone => ?_⟩
  · exact signals_beat_routed (s := takeBench s) ((csrRoute_of_req s.cfg hreq).trans hroute)
  · refine signals_beat_unrouted (s := takeBench s) ?_
    rcases hnone with hreq | hroute
    · exact csrRoute_idle s.cfg hreq
    · simp [csrRoute, hroute]

/-! The response path (R273, R275) -/

/-- The CsrDecoder looks at the answer of the selected region's target and at no other (R275). -/
theorem csrDecoderRsp_congr {draw : Nat} {routed : Option (Nat × Region)} {csrErr : Bool} {inp inp' : CycleInput}
    (h : ∀ u r, routed = some (u, r) → inp'.csr[u]? = inp.csr[u]?) :
    csrDecoderRsp draw routed csrErr inp' = csrDecoderRsp draw routed csrErr inp := by
  rcases routed with - | ⟨u, r⟩
  · rfl
  · simp only [csrDecoderRsp, csrAnswer, List.getD_eq_getElem?_getD, h u r rfl]

/-- The state whose CSR targets drive other answers in the current cycle. -/
def withCsrAnswers (s : State) (other : List BeatRsp) : State :=
  { s with inputs := { s.input with csr := other } :: s.inputs.tail }

section
variable (s : State) (other : List BeatRsp)

@[simp] theorem withCsrAnswers_input : (withCsrAnswers s other).input = { s.input with csr := other } := rfl
@[simp] theorem withCsrAnswers_cfg : (withCsrAnswers s other).cfg = s.cfg := rfl
@[simp] theorem sharedBus_withCsrAnswers : sharedBus (withCsrAnswers s other) = sharedBus s := rfl
@[simp] theorem csrBus_withCsrAnswers : csrBus (withCsrAnswers s other) = csrBus s := rfl

/-- An edge reads the targets' answers through the cycle's signals alone. -/
theorem edge_withCsrAnswers (sig : Signals) : edge (withCsrAnswers s other) sig = edge s sig := rfl

/-- With the same response from the CsrDecoder the answers of CSR targets leave no trace in the cycle. -/
theorem idleCycle_withCsrAnswers (h : (ownSignals (withCsrAnswers s other)).csrRsp = (ownSignals s).csrRsp) :
    idleCycle (withCsrAnswers s other) = idleCycle s := by
  have hsig : ownSignals (withCsrAnswers s other) = ownSignals s := by
    simp only [ownSignals, signals, sharedBus_withCsrAnswers, csrBus_withCsrAnswers] at h ⊢
    rw [h]
    rfl
  calc idleCycle (withCsrAnswers s other)
      = edge (withCsrAnswers s other) (ownSignals (withCsrAnswers s other)) := rfl
    _ = edge s (ownSignals s) := by rw [hsig, edge_withCsrAnswers]

end

/-- Settles O40: the CsrDecoder's response is the same (`csrDecoderRsp_congr`), and the answers reach nothing else. -/
theorem unselectedCsrTargetsAreIgnored : Obligations.UnselectedCsrTargetsAreIgnored := by
  intro s inp rest other hb hin h
  have hstate : { s with inputs := { inp with csr := other } :: rest } = withCsrAnswers s other := by
    simp [withCsrAnswers, input_cons hin, hin]
  have hrsp : (ownSignals (withCsrAnswers s other)).csrRsp = (ownSignals s).csrRsp :=
    csrDecoderRsp_congr (inp' := (withCsrAnswers s other).input) (by simpa [input_cons hin] using h)
  rw [hstate]
  cases hc : configError s.cfg with
  | some e => rw [step_refused hc, step_refused (s := withCsrAnswers s other) hc]
  | none =>
    rw [step_eq_cycle hc hb, step_eq_cycle (s := withCsrAnswers s other) hc hb, idleCycle_withCsrAnswers s other hrsp]

/-! Completion of the CSR beat kinds (R274, R276, R277, R278) -/

/-- Each beat kind that is issued has a meaning, the cycle with its beat on the CSR sub-bus. -/
theorem exec_csrBeat_next {i : Instr} {adr : CsrAddr} {datW : Byte} (s : State)
    (hi : i = .csrRead adr datW ∨ i = .csrWrite adr datW ∨ i = .csrWriteNosel adr datW) :
    ∃ we select, exec i s = .next (fabricCycle s (sharedBus s) (onCsr adr we select datW)) := by
  rcases hi with rfl | rfl | rfl
  · exact ⟨false, true, rfl⟩
  · exact ⟨true, true, rfl⟩
  · exact ⟨true, false, rfl⟩

/-- A failed beat aborts the wide transaction (43_csr_bridge.md R239). -/
theorem bridgeNext_aborts {b : Bridge} (bin : BridgePort) {rsp : BeatRsp} (hp : b.phase = .busy)
    (he : rsp.err = true) : (bridgeNext b bin rsp).phase = .done ∧ (bridgeNext b bin rsp).err = true := by
  rw [bridgeNext_busy bin rsp hp, bridgeBeatEdge_failed b he]
  exact ⟨rfl, rfl⟩

/-- Settles O41: nothing is driven (`signals_beat_unrouted`), and what answers is decided by whether the error is due. -/
theorem unmappedBeatErrsInItsSecondCycle : Obligations.UnmappedBeatErrsInItsSecondCycle := by
  intro i adr datW s hi hrst hroute
  obtain ⟨we, select, he⟩ := exec_csrBeat_next s hi
  rw [fabricCycle_run _ _ hrst] at he
  have hunrouted : csrRoute s.cfg (onCsr adr we select datW) = none := hroute
  refine ⟨_, he, signals_beat_unrouted hunrouted, fun hd => ?_, fun hd => ?_⟩
  · have hrsp : (signals s (sharedBus s) (onCsr adr we select datW)).csrRsp = noBeatAnswer s.draw .csrDecoderNone := by
      simp [csrDecoderRsp, hroute, hd]
    rw [runEdge_sig, hrsp]
    exact ⟨rfl, rfl, dueError_eq_true.2 ⟨rfl, hroute, hd⟩⟩
  · have hrsp : (signals s (sharedBus s) (onCsr adr we select datW)).csrRsp = synthesizedBeatError := by
      simp [csrDecoderRsp, hroute, hd]
    rw [runEdge_sig, runEdge_br, hrsp]
    exact ⟨rfl, by simp [dueError, hd], fun hp => bridgeNext_aborts _ hp rfl⟩

/-- The cycle of a mapped beat: it is issued to its target, and what the target drives is the beat's response (R272,
R273). -/
theorem mappedBeat_answered {adr : CsrAddr} {we select : Bool} {datW : Byte} {s t : State} {u : Nat} {r : Region}
    {a : BeatRsp} (ht : fabricCycle s (sharedBus s) (onCsr adr we select datW) = t) (hrst : s.input.rst = false)
    (hroute : route s.cfg.csrMap adr.toNat = some (u, r)) (ha : s.input.csr[u]? = some a) :
    t.sig.csrTargets[u]? =
        some { req := true, q := { adr := rebaseByte r adr, we := we, select := select, datW := datW } } ∧
      (∀ (v : Nat) (p : CsrPort), t.sig.csrTargets[v]? = some p → v ≠ u → p.req = false) ∧
      t.sig.csrRsp = a ∧ t.csrErr = false := by
  have hrouted : csrRoute s.cfg (onCsr adr we select datW) = some (u, r) := hroute
  have hanswers : AnswersBeat s.cfg (onCsr adr we select datW).q a s.input := ⟨u, r, hroute, ha⟩
  obtain ⟨hdriven, hothers⟩ := signals_beat_routed (shared := sharedBus s) hrouted
  rw [← ht, fabricCycle_run _ _ hrst, runEdge_sig]
  exact ⟨hdriven, hothers, csrDecoderRsp_of_answers hanswers _ _, dueError_of_answers hanswers _⟩

/-- Settles O42: `mappedBeat_answered` with a read on the sub-bus, whose data lines the kind leaves open. -/
theorem csrReadOfAMappedTargetCompletes : Obligations.CsrReadOfAMappedTargetCompletes := by
  intro adr datW s u r a hrst hroute ha _
  obtain ⟨hdriven, hothers, hrsp, hdue⟩ := mappedBeat_answered rfl hrst hroute ha
  exact ⟨_, _, rfl, hdriven, rfl, rfl, rfl, rfl, hothers, hrsp, hdue⟩

/-- Settles O43: `mappedBeat_answered` with a write on the sub-bus. -/
theorem csrWriteOfAMappedTargetCompletes : Obligations.CsrWriteOfAMappedTargetCompletes := by
  intro adr datW s u r a hrst hroute ha _
  exact ⟨_, rfl, mappedBeat_answered rfl hrst hroute ha⟩

/-- Settles O44: `mappedBeat_answered` with a write of an unselected lane on the sub-bus. -/
theorem csrWriteNoselOfAMappedTargetCompletes : Obligations.CsrWriteNoselOfAMappedTargetCompletes := by
  intro adr datW s u r a hrst hroute ha _
  exact ⟨_, rfl, mappedBeat_answered rfl hrst hroute ha⟩

end Sys2Proof.Machine
end

section
/-! The step (45_fabric_step.md): one cycle on both buses, the hold duty and its faults, and a target that does not
answer. -/

namespace Sys2Proof.Machine

/-! A cycle on both buses (R293, R294) -/

/-- A request of the granted initiator means the fabric's own cycle, in every phase of the CsrBridge. -/
theorem exec_grantedRequest {s : State} {g : Nat} (hg : s.grant = some g)
    (hr : (requestLine s.draw s.input g).req = true) :
    exec (decodeWreq (requestLine s.draw s.input g).word) s = .next (idleCycle s) := by
  rw [exec_decodeWreq, idleCycle, sharedBus_granted hg, hr]

/-- A beat the CsrBridge issues means the fabric's own cycle. -/
theorem exec_issuedBeat {s : State} (hp : s.br.phase = .busy) :
    exec (decodeCreq (csrBus s).q.pack) s = .next (idleCycle s) := by
  rw [idleCycle, csrBus_busy hp, exec_decodeCreq _ _ (by simpa using beatOf_not_reserved _ _ _ _ _),
    beatReq_unpack_pack]

/-- Settles O48: either request means the fabric's own cycle. -/
theorem bothBusesDescribeOneCycle : Obligations.BothBusesDescribeOneCycle := by
  intro s g hg hr hp
  rw [exec_grantedRequest hg hr, exec_issuedBeat hp]

/-! The hold duty (R296) -/

/-- A completion clears the held request. -/
theorem heldNext_completed (h : Option Wreq) (line : RequestLine) {rsp : BusRsp}
    (hc : completes rsp.ack rsp.err = true) : heldNext h line rsp = none := if_pos hc

/-- Without a completion a held request stays held. -/
theorem heldNext_kept (q : Wreq) (line : RequestLine) {rsp : BusRsp} (hc : completes rsp.ack rsp.err = false) :
    heldNext (some q) line rsp = some q := by
  simp [heldNext, hc]

/-- Without a completion an initiator that holds nothing takes up the request it drives. -/
theorem heldNext_taken {line : RequestLine} {rsp : BusRsp} (hc : completes rsp.ack rsp.err = false)
    (hr : line.req = true) : heldNext none line rsp = some line.word := by
  simp [heldNext, hc, hr]

/-- An initiator that holds nothing and drives no request holds nothing after the cycle. -/
theorem heldNext_without_request {line : RequestLine} {rsp : BusRsp} (hc : completes rsp.ack rsp.err = false)
    (hr : line.req = false) : heldNext none line rsp = none := by
  simp [heldNext, hc, hr]

/-- A fault of initiator `i` in the current cycle is one recorded before or a duty broken now. -/
theorem mem_runEdge_faults (s : State) (sig : Signals) {i : Nat} (hi : i < s.cfg.n) :
    .initiatorProtocol i s.cycle ∈ (runEdge s sig).faults ↔
      .initiatorProtocol i s.cycle ∈ s.faults ∨
        breaksDuty (heldBy s.held i) (requestLine s.draw s.input i) = true := by
  rw [runEdge_faults, mem_addFaults, mem_cycleFaults]
  refine or_congr_right ⟨?_, fun hbreak => ⟨i, hi, hbreak, rfl⟩⟩
  rintro ⟨j, -, hbreak, heq⟩
  obtain ⟨rfl, -⟩ := Fault.initiatorProtocol.inj heq
  exact hbreak

/-- Settles O55: a step outside reset is a running edge, whose fault of an initiator is its broken duty
(`mem_runEdge_faults`) and whose held request is `heldNext` of the response on its port. -/
theorem holdDutyIsChecked : Obligations.HoldDutyIsChecked := by
  intro s t h hrst i hi
  obtain ⟨-, shared, beat, rfl⟩ := step_next h
  rw [fabricCycle_run (s := takeBench s) _ _ hrst]
  refine ⟨_, signals_iniRsp (takeBench s) shared beat hi, ?_, ?_⟩
  · rw [← breaksDuty_iff]
    exact mem_runEdge_faults (takeBench s) _ hi
  · rw [heldBy_runEdge (takeBench s) _ hi, takeBench_held]
    refine ⟨fun hc => heldNext_completed _ _ (Bool.or_eq_true_iff.2 hc), fun ha he => ?_⟩
    have hc := Bool.or_eq_false_iff.2 ⟨ha, he⟩
    refine ⟨fun q hq => ?_, fun hnone hreq => ?_, fun hnone hreq => ?_⟩
    · rw [hq]
      exact heldNext_kept q _ hc
    · rw [hnone]
      exact heldNext_taken hc hreq
    · rw [hnone]
      exact heldNext_without_request hc hreq

/-! The recorded faults (R298, R47) -/

/-- A cycle adds faults of this cycle alone, and a reset edge adds none. -/
theorem mem_fabricCycle_faults {s : State} (shared : MainPort) (beat : CsrPort) {f : Fault} :
    f ∈ (fabricCycle s shared beat).faults ↔
      f ∈ s.faults ∨ (s.input.rst = false ∧ f ∈ cycleFaults s.draw s.cycle s.cfg.n s.held s.input) := by
  cases hrst : s.input.rst with
  | true => simp [fabricCycle_reset _ _ hrst]
  | false => simp [fabricCycle_run _ _ hrst, mem_addFaults]

/-- Settles O56: a step is a cycle, whose faults are `mem_fabricCycle_faults`. -/
theorem faultsOnlyGrow : Obligations.FaultsOnlyGrow := by
  intro s t h
  obtain ⟨-, shared, beat, rfl⟩ := step_next h
  simp only [mem_fabricCycle_faults, takeBench_faults]
  refine ⟨fun f hf => .inl hf, fun f hf => hf.imp_right ?_⟩
  rintro ⟨-, hnew⟩
  obtain ⟨i, hi, -, rfl⟩ := mem_cycleFaults.1 hnew
  exact ⟨i, hi, rfl⟩

/-! A target that does not answer (R300, R192) -/

/-- What a silent target puts on its port is no completion. -/
theorem mainAnswer_of_silent {k : Nat} {inp : CycleInput} (draw : Nat) (h : Silent k inp) :
    completes (mainAnswer draw inp k).ack (mainAnswer draw inp k).err = false := by
  obtain ⟨d, hd⟩ := h
  simp [mainAnswer, hd, completes]

/-- A cycle in which the selected target is silent leaves the grant and the pointer as they are (R192). -/
theorem silentCycle_keeps_grant {s : State} {g k : Nat} {w : Wreq} {r : Region} (hg : s.grant = some g)
    (hroute : routeOf s w = some (k, r)) (hr : r.target = .external) (hd : Drives g w s.input)
    (hs : Silent k s.input) :
    (runEdge s (ownSignals s)).grant = some g ∧ (runEdge s (ownSignals s)).last = s.last := by
  have hshared : sharedBus s = { req := true, q := BusReq.unpack w } := by
    rw [sharedBus_granted hg, requestLine_of_drives _ hd]
  have hrouted : decoderRoute s.cfg (sharedBus s) = some (k, r) := by
    rw [hshared]
    exact hroute
  have hrsp : (ownSignals s).decRsp = mainAnswer s.draw s.input k := by
    rw [ownSignals, signals_decRsp, hrouted, decoderRsp_external _ _ _ _ _ hr]
  obtain ⟨hlast, -⟩ := runEdge_granted s (ownSignals s) hg
  rw [runEdge_grant_of_granted hg, hrsp, mainAnswer_of_silent _ hs]
  exact ⟨rfl, hlast⟩

/-- Settles O58, by induction on the silent cycles: each leaves a state from which the others start in the same way
(`silentCycle_keeps_grant`). -/
theorem silentTargetHoldsTheBus : Obligations.SilentTargetHoldsTheBus := by
  intro pre rest s g k w r hc hb hg hroute hr hin hpre
  induction pre generalizing s with
  | nil => exact ⟨s, rfl, hg, rfl, hin⟩
  | cons inp pre ih =>
    obtain ⟨⟨hd, hs⟩, hpre⟩ := List.forall_mem_cons.1 hpre
    rw [← input_cons hin] at hd hs
    have hstep : step s = .next (runEdge s (ownSignals s)) := by rw [step_eq_cycle hc hb, idleCycle_run hd.1]
    obtain ⟨hgrant, hlast⟩ := silentCycle_keeps_grant hg hroute hr hd hs
    obtain ⟨t, hrun, htg, htl, htin⟩ :=
      ih (runEdge s (ownSignals s)) hc hb hgrant hroute (by rw [runEdge_inputs, hin]; rfl) hpre
    exact ⟨t, (run_succ core hstep pre.length).trans hrun, htg, htl.trans hlast, htin⟩

end Sys2Proof.Machine
end

section
/-! Errors and the end of a run (60_exceptions.md, 45_fabric_step.md R301): what a completion leaves behind, the quiescent
cycle, and the trace program that has ended. -/

namespace Sys2Proof.Machine

/-! After a completion (R328, R168, R196) -/

/-- Between transactions the invariants leave no error due and the CsrBridge `Idle`. -/
theorem FabricInv.idle_of_ungranted {s : State} (inv : FabricInv s) (hg : s.grant = none) :
    s.decErr = false ∧ s.csrErr = false ∧ s.br.phase = .idle := by
  have hp : s.br.phase = .idle := by
    by_contra hp
    obtain ⟨g, -, -, -, hg', -⟩ := inv.bridge_busy hp
    simp [hg] at hg'
  refine ⟨Bool.eq_false_iff.2 fun hd => ?_, Bool.eq_false_iff.2 fun hd => ?_, hp⟩
  · obtain ⟨g, -, hg', -⟩ := inv.dec_due hd
    simp [hg] at hg'
  · obtain ⟨hbusy, -⟩ := inv.csr_due hd
    simp [hp] at hbusy

/-- A completion frees the bus (R196). -/
theorem step_grant_of_completion {s t : State} {g : Nat} (h : step s = .next t) (hrst : s.input.rst = false)
    (hg : s.grant = some g) (hc : completes t.sig.decRsp.ack t.sig.decRsp.err = true) : t.grant = none := by
  rw [step_run h hrst, runEdge_grant_of_granted (s := takeBench s) hg, if_pos hc]

/-- Settles O60: the completion frees the bus (`step_grant_of_completion`), and the invariants, which the step keeps
(`fabricInvariantIsKept`), leave nothing due on a free bus. -/
theorem completionLeavesNoTrace : Obligations.CompletionLeavesNoTrace := by
  intro s t g inv h hf hrst hg hc
  have hfree : t.grant = none := step_grant_of_completion h hrst hg (by simpa [completes] using hc)
  exact ⟨hfree, (fabricInvariantIsKept s t inv h hf).idle_of_ungranted hfree⟩

/-! A quiescent cycle (R301, R335) -/

/-- Where nothing is held no duty can be broken (R296). -/
theorem cycleFaults_of_none_held (draw cycle n : Nat) {held : List (Option Wreq)} (inp : CycleInput)
    (h : ∀ i, heldBy held i = none) : cycleFaults draw cycle n held inp = [] := by
  simp [cycleFaults, h, breaksDuty]

/-- Without a grant, a held request or a request, nothing is held after the edge. -/
theorem runEdge_none_held {s : State} (sig : Signals) (hg : s.grant = none) (hheld : ∀ i, heldBy s.held i = none)
    (hquiet : ∀ i, i < s.cfg.n → (requestLine s.draw s.input i).req = false) (i : Nat) :
    heldBy (runEdge s sig).held i = none := by
  by_cases hi : i < s.cfg.n
  · rw [heldBy_runEdge s sig hi, hheld]
    exact heldNext_without_request (responseTo_ungranted s sig (by simp [hg])) (hquiet i hi)
  · simp [heldBy, hi]

/-- A cycle of a quiescent fabric leaves it at rest, with its pointer, its CsrBridge and its faults. -/
theorem runEdge_of_quiescent {s : State} (h : Quiescent s) :
    AtRest (runEdge s (ownSignals s)) ∧ (runEdge s (ownSignals s)).last = s.last ∧
      (runEdge s (ownSignals s)).br = s.br ∧ (runEdge s (ownSignals s)).faults = s.faults := by
  obtain ⟨⟨hg, -, hp, -, hheld⟩, hquiet⟩ := h
  obtain ⟨hselect, hlast⟩ := runEdge_ungranted (ownSignals s) hg
  have hgrant : (runEdge s (ownSignals s)).grant = none := hselect.trans (select_eq_none_iff.2 hquiet)
  have hshared : (sharedBus s).req = false := sharedBus_ungranted hg
  have hbr : (runEdge s (ownSignals s)).br = s.br :=
    bridgeNext_idle_of_no_request _ hp (signals_unrouted (csrBus s) (decoderRoute_idle s.cfg hshared)).1
  have hdec : (runEdge s (ownSignals s)).decErr = false := by simp [ownSignals, dueError, hshared]
  have hcsr : (runEdge s (ownSignals s)).csrErr = false := runEdge_csrErr_of_not_busy (sharedBus s) (by simp [hp])
  refine ⟨⟨hgrant, hdec, by rw [hbr, hp], hcsr, runEdge_none_held _ hg hheld hquiet⟩, ?_, hbr, ?_⟩
  · rw [hlast, hgrant, Option.getD_none]
  · simp [cycleFaults_of_none_held _ _ _ _ hheld, addFaults]

/-- The step of a quiescent fabric outside reset. -/
theorem step_of_quiescent {s : State} (hc : configError s.cfg = none) (hb : s.bench = []) (h : Quiescent s)
    (hrst : s.input.rst = false) :
    ∃ t, step s = .next t ∧ AtRest t ∧ t.last = s.last ∧ t.br = s.br ∧ t.faults = s.faults :=
  ⟨_, by rw [step_eq_cycle hc hb, idleCycle_run hrst], runEdge_of_quiescent h⟩

/-! A trace program that has ended (R301) -/

/-- The driver that has completed all its statements. -/
def endedDriver : Driver := { todo := [], out := none, wait := 0 }

theorem driverDone_iff {d : Driver} : driverDone d = true ↔ d = endedDriver := by
  rcases d with ⟨todo, out, wait⟩
  simp [driverDone, endedDriver, and_assoc]

theorem driverBegin_ended (c : Nat) : driverBegin c endedDriver = endedDriver := driverBegin_free rfl rfl

theorem driverEnd_ended (completed : Bool) : driverEnd completed endedDriver = endedDriver := by
  cases completed <;> rfl

theorem traceDone_iff {r : TraceRun} : traceDone r = true ↔ ∀ d ∈ traceDrivers r, d = endedDriver := by
  simp only [traceDone, List.all_eq_true, driverDone_iff]

/-- The drivers of an ended program request nothing. -/
theorem requestLine_of_traceDone {r : TraceRun} (h : traceDone r = true) (i : Nat) :
    (requestLine (traceState r).draw (traceState r).input i).req = false := by
  simp only [requestLine, traceState_ini, List.getD_eq_getElem?_getD, List.getElem?_mapIdx]
  cases hd : (traceDrivers r)[i]? with
  | none => rfl
  | some d =>
    obtain rfl := traceDone_iff.1 h d (List.mem_of_getElem? hd)
    rfl

/-- A cycle outside reset leaves an ended program ended. -/
theorem traceDone_traceNext {r : TraceRun} (t : State) (hrst : r.state.input.rst = false) (h : traceDone r = true) :
    traceDone (traceNext r t) = true := by
  rw [traceDone_iff] at h ⊢
  intro d hd
  simp only [traceNext, hrst, Bool.false_eq_true, if_false, traceDrivers, List.mem_map, List.mem_mapIdx] at hd
  obtain ⟨_, ⟨i, hi, rfl⟩, rfl⟩ := hd
  rw [h _ (List.getElem_mem hi), driverEnd_ended, driverBegin_ended]

theorem traceNext_state (r : TraceRun) (t : State) : (traceNext r t).state = t := by
  unfold traceNext
  split <;> rfl

theorem traceCycle_of_step {r : TraceRun} {t : State} (h : step (traceState r) = .next t) :
    traceCycle r = .next (traceNext r t) := by
  simp [traceCycle, h]

/-- Settles O59: the step of a quiescent fabric (`step_of_quiescent`), which keeps the fabric of an ended program at rest,
while its drivers stay ended (`traceDone_traceNext`) and so go on requesting nothing. -/
theorem quiescentFabricKeepsItsValues : Obligations.QuiescentFabricKeepsItsValues := by
  refine ⟨fun s hc hb hq hrst => step_of_quiescent hc hb hq hrst, ?_⟩
  rintro r hc hb ⟨hdone, hq, hf⟩ hrst
  obtain ⟨t, hstep, hrest, -, -, hfaults⟩ := step_of_quiescent (s := traceState r) hc hb hq hrst
  have hdone' : traceDone (traceNext r t) = true := traceDone_traceNext t hrst hdone
  have hstate : (traceNext r t).state = t := traceNext_state r t
  refine ⟨_, traceCycle_of_step hstep, hdone', ⟨?_, fun i _ => requestLine_of_traceDone hdone' i⟩, ?_⟩
  · rw [← hstate] at hrest
    exact hrest
  · rw [hstate]
    exact hfaults.trans hf

end Sys2Proof.Machine
end

section
/-! Reset (10_state.md R49, 45_fabric_step.md R294, 70_reset_and_hazards.md R350 to R352): the reset edge, whatever else
the cycle carries, and the first arbitration after it. -/

namespace Sys2Proof.Machine

/-- A step with `rst = 1` is a reset edge, whichever transaction kind the cycle fetches. -/
theorem step_next_reset {s t : State} (h : step s = .next t) (hr : s.input.rst = true) :
    ∃ sig, t = resetEdge (takeBench s) sig := by
  obtain ⟨-, shared, beat, rfl⟩ := step_next h
  exact ⟨_, fabricCycle_reset shared beat hr⟩

/-- Settles O51: the step is a reset edge (`step_next_reset`), which leaves the fabric at rest and writes neither the
faults nor the configuration. -/
theorem resetEdgeOverridesEverything : Obligations.ResetEdgeOverridesEverything := by
  intro s t h hr
  obtain ⟨sig, rfl⟩ := step_next_reset h hr
  obtain ⟨hgrant, hdec, hphase, hcsr, hheld⟩ := atRest_resetEdge (takeBench s) sig
  exact ⟨hgrant, rfl, hdec, hcsr, hphase, rfl, rfl, hheld, rfl, rfl⟩

/-- With the pointer at `N - 1` the search starts at index 0, so the lowest-indexed requester is selected. -/
theorem select_of_lowest {n last i : Nat} {pending : Nat → Bool} (hl : last + 1 = n) (hi : i < n)
    (hp : pending i = true) (hlow : ∀ j, j < i → pending j = false) : select n last pending = some i :=
  select_eq_some_iff.2 ⟨i, hi, (place_of_last_pointer hl hi).symm, hp, fun j hj => by
    rw [place_of_last_pointer hl (hj.trans hi)]
    exact hlow j hj⟩

/-- Settles O50: the state is at rest with the pointer at `N - 1`, from which selection takes the lowest-indexed
requester (`select_of_lowest`). -/
theorem resetStateHasTheStatedValues : Obligations.ResetStateHasTheStatedValues := by
  intro cfg hn
  have hlast : (State.resetOf cfg).last + 1 = cfg.n := Nat.sub_one_add_one hn
  obtain ⟨hgrant, hdec, hphase, hcsr, hheld⟩ := atRest_resetOf cfg
  exact ⟨⟨hgrant, hlast, hdec, hcsr, hphase, rfl, rfl, rfl, hheld⟩, fun _ _ => select_of_lowest hlast⟩

end Sys2Proof.Machine
end
